-- ==== Sys2Proof/Word.lean ====
section
/-! DEFINITION. The word types of the engine: the 32-bit bus and command word, and the number of an
operand register (00_scope.md R8, R11). -/

namespace Sys2Proof

/-- The bus word and the command word: 32 bits, bit 0 the least significant (R11, R15). -/
abbrev Word := BitVec 32

/-- The number of an operand register, `R0` to `R7` (R8: `NREG = 8`). -/
abbrev Reg := Fin 8

end Sys2Proof
end

