-- ==== Sys2Proof/Syntax.lean ====
section
/-! DEFINITION. The eight commands of the engine, one constructor per row of opcode_table.json
(30_encoding.md R84), with the operands of R82 and R90, destination first. -/

namespace Sys2Proof

/-- A command of the engine (30_encoding.md R84, R90). -/
inductive Instr where
  /-- `NOP` (40_control.md R100). -/
  | nop
  /-- `SAMPLE Rd, Rmin, Rmax` (41_sampler.md R106). -/
  | sample (rd rmin rmax : Reg)
  /-- `JACOBI Rd, Ra, Rn` (42_jacobi.md R118). -/
  | jacobi (rd ra rn : Reg)
  /-- `GCD Rd, Ra, Rb` (43_gcd.md R131). -/
  | gcd (rd ra rb : Reg)
  /-- `MODEXP Rd, Ra, Re, Rn` (44_modexp.md R138). -/
  | modexp (rd ra re rn : Reg)
  /-- `MODMUL Rd, Ra, Rb, Rn` (44_modexp.md R142). -/
  | modmul (rd ra rb rn : Reg)
  /-- `MODINV Rd, Rs, Rn` (45_modinv.md R151). -/
  | modinv (rd rs rn : Reg)
  /-- `PTEST Rn, #conf` (46_ptest.md R158). -/
  | ptest (rn : Reg) (conf : Nat)
  deriving DecidableEq, Repr

end Sys2Proof
end

