-- ==== Sys2Proof/WellFormed.lean ====
section
/-! DEFINITION. Which commands can be encoded. A register operand is one of the eight by its type;
the one check left is the range of PTEST's immediate (30_encoding.md R83). -/

namespace Sys2Proof

/-- `confidence` fits the 12-bit field `IMM`: 0 to 4095 (30_encoding.md R83; 00_scope.md R11). -/
def confFits (conf : Nat) : Bool := decide (conf < 4096)

/-- The command has an encoding (30_encoding.md R82, R83). -/
def Instr.wf : Instr → Bool
  | .nop => true
  | .sample _ _ _ => true
  | .jacobi _ _ _ => true
  | .gcd _ _ _ => true
  | .modexp _ _ _ _ => true
  | .modmul _ _ _ _ => true
  | .modinv _ _ _ => true
  | .ptest _ conf => confFits conf

end Sys2Proof
end

