-- ==== Sys2Proof/Decode.lean ====
section
/-! DEFINITION. The decoder of the command word, total on all 32-bit words (30_encoding.md R86), and
after it the encoder (R92). -/

namespace Sys2Proof

/-- Why a word is no command: the two cases of 30_encoding.md R87. -/
inductive DecodeError where
  /-- Case (a): `OP` is `0x08` to `0xFF`. -/
  | unknownOpcode (op : BitVec 8)
  /-- Case (b): `OP` is one of the eight, and a field that R82 marks "must be 0" is not 0. -/
  | reservedFieldNotZero (op : BitVec 8)
  deriving DecidableEq, Repr

/-! The fields of the command word (R81). -/

/-- `OP`, bits 31:24. -/
def fieldOP (w : Word) : BitVec 8 := w.extractLsb' 24 8
/-- `RD`, bits 23:21: the destination register's number (R82). -/
def fieldRD (w : Word) : Reg := ⟨(w.extractLsb' 21 3).toNat, (w.extractLsb' 21 3).isLt⟩
/-- `RA`, bits 20:18: the first source register's number (R82). -/
def fieldRA (w : Word) : Reg := ⟨(w.extractLsb' 18 3).toNat, (w.extractLsb' 18 3).isLt⟩
/-- `RB`, bits 17:15: the second source register's number (R82). -/
def fieldRB (w : Word) : Reg := ⟨(w.extractLsb' 15 3).toNat, (w.extractLsb' 15 3).isLt⟩
/-- `RN`, bits 14:12: the modulus register's number (R82). -/
def fieldRN (w : Word) : Reg := ⟨(w.extractLsb' 12 3).toNat, (w.extractLsb' 12 3).isLt⟩
/-- `IMM`, bits 11:0, read as an unsigned natural (R83). -/
def fieldIMM (w : Word) : Nat := (w.extractLsb' 0 12).toNat

/-- The decoder: the mask and match tests of R86, in its order; a word that passes none is refused by
the case of R87 it falls under. -/
def decode (w : Word) : Except DecodeError Instr :=
  if w &&& 0xFFFFFFFF#32 = 0x00000000#32 then .ok .nop
  else if w &&& 0xFF007FFF#32 = 0x01000000#32 then
    .ok (.sample (fieldRD w) (fieldRA w) (fieldRB w))
  else if w &&& 0xFF038FFF#32 = 0x02000000#32 then
    .ok (.jacobi (fieldRD w) (fieldRA w) (fieldRN w))
  else if w &&& 0xFF007FFF#32 = 0x03000000#32 then
    .ok (.gcd (fieldRD w) (fieldRA w) (fieldRB w))
  else if w &&& 0xFF000FFF#32 = 0x04000000#32 then
    .ok (.modexp (fieldRD w) (fieldRA w) (fieldRB w) (fieldRN w))
  else if w &&& 0xFF000FFF#32 = 0x05000000#32 then
    .ok (.modmul (fieldRD w) (fieldRA w) (fieldRB w) (fieldRN w))
  else if w &&& 0xFF038FFF#32 = 0x06000000#32 then
    .ok (.modinv (fieldRD w) (fieldRA w) (fieldRN w))
  else if w &&& 0xFFFF8000#32 = 0x07000000#32 then
    .ok (.ptest (fieldRN w) (fieldIMM w))
  else if fieldOP w < 8#8 then .error (.reservedFieldNotZero (fieldOP w))
  else .error (.unknownOpcode (fieldOP w))

/-- The decoder on an instruction numbered as opcode_table.json numbers it. Every command is one
32-bit word (R80), taken by the engine as a whole (20_memory.md R54), so the table's bits are the
word's; bits above `nbits` are 0. -/
def decodeTableWord (nbits w : Nat) : Option Instr :=
  if nbits ≤ 32 then (decode (BitVec.ofNat 32 (w % 2 ^ nbits))).toOption else none

/-! The encoder (R92), the fields of each command as R82 and R84 give them. -/

/-- `word = OP * 2^24 + RD * 2^21 + RA * 2^18 + RB * 2^15 + RN * 2^12 + IMM` (R92). -/
def encodeFields (op : Nat) (rd ra rb rn : Reg) (imm : Nat) : Nat :=
  op * 2 ^ 24 + rd.val * 2 ^ 21 + ra.val * 2 ^ 18 + rb.val * 2 ^ 15 + rn.val * 2 ^ 12 + imm

/-- The encoding of a command as a natural number, unused fields 0 (R82, R92). -/
def encodeNat : Instr → Nat
  | .nop => encodeFields 0x00 0 0 0 0 0
  | .sample rd rmin rmax => encodeFields 0x01 rd rmin rmax 0 0
  | .jacobi rd ra rn => encodeFields 0x02 rd ra 0 rn 0
  | .gcd rd ra rb => encodeFields 0x03 rd ra rb 0 0
  | .modexp rd ra re rn => encodeFields 0x04 rd ra re rn 0
  | .modmul rd ra rb rn => encodeFields 0x05 rd ra rb rn 0
  | .modinv rd rs rn => encodeFields 0x06 rd rs 0 rn 0
  | .ptest rn conf => encodeFields 0x07 0 0 0 rn conf

/-- The command word of a well-formed command (R80, R92). -/
def encode (i : Instr) : Word := BitVec.ofNat 32 (encodeNat i)

end Sys2Proof
end

