-- ==== Sys2Proof/Config.lean ====
section
/-! DEFINITION. What one engine fixes (its operand width `W`, 00_scope.md R7) and the one free value
of the model: what the random source answers when no answer is offered to it (R10, R17). -/

namespace Sys2Proof.Config

/-- The implementation parameters of one engine. `W` is open (R7, R44); the step takes it as an
argument (`Machine.stepAt`), as the number of 32-bit limbs of an operand register. -/
structure Params where
  /-- `LIMBS = W / 32` (R7), reported in `CFG` (10_state.md R31). -/
  limbs : Nat
  deriving DecidableEq, Repr

/-- The operand width `W` in bits, a multiple of 32 (R7). -/
def Params.W (c : Params) : Nat := 32 * c.limbs

/-- `64 <= W <= 4096` (R7). -/
abbrev Params.Valid (c : Params) : Prop := 2 ≤ c.limbs ∧ c.limbs ≤ 128

/-- The engine that the fixed-name `Machine.step` runs: `W = 2048`, "the reference value used by every
test vector that needs one" (R7). DESIGN CHOICE, log entry 1: statements are made for every valid
`Params`, through `Machine.stepAt`. -/
def engine : Params := { limbs := 64 }

/-- The free value behind `Draw` (R17, R44): the answer the random source gives to the draw numbered
`n` when `State.source` offers none. It has no body, so nothing is known of it. Log entry 3. -/
opaque freeDraw : Nat → Nat

end Sys2Proof.Config
end

