-- ==== Sys2Proof/Machine/State.lean ====
section
/-! DEFINITION. The engine's state (10_state.md R20), the two agents outside it as data the step reads
(00_scope.md R6: the host's accesses and the random source's answers), the state after reset (R45),
and the reasons a step can stop. -/

namespace Sys2Proof.Machine

/-- The width of a bus access. Only `word`, aligned, exists at the engine's port (20_memory.md R55);
the others are here so that the model can say that they have no step. -/
inductive AccessSize where
  | byte | half | word | double | burst
  deriving DecidableEq, Repr

/-- One place in the total order of 20_memory.md R70: what moves next. -/
inductive Event where
  /-- `HostRead(off)` (20_memory.md R52). -/
  | read (size : AccessSize) (off : Nat)
  /-- `HostWrite(off, v)` (20_memory.md R53). -/
  | write (size : AccessSize) (off : Nat) (v : Word)
  /-- The engine's turn: the `Complete` step if it is enabled (20_memory.md R68), else nothing
  (70_reset_and_hazards.md R231). -/
  | engine
  /-- `Reset` (70_reset_and_hazards.md R230). -/
  | reset
  deriving DecidableEq, Repr

/-- What stands at an offset of the register block (20_memory.md R51). -/
inductive BusTarget where
  | id | cfg | ctrl | status | cmd
  /-- Reads as zero, ignores writes (20_memory.md R56, R57). -/
  | reserved
  /-- Limb `j` of operand register `R[i]`. -/
  | limb (i : Reg) (j : Nat)
  deriving DecidableEq, Repr

/-- The random source as the engine sees it (00_scope.md R10, R17): the answers it will give, in
order, as a free input, and how many draws have been taken. It holds no generator. -/
structure RandomSource where
  /-- Answers offered to the next draws; after the last one `Config.freeDraw` answers. -/
  answers : List Nat
  /-- The number of draws taken so far; it selects a fresh `Config.freeDraw` value. -/
  drawn   : Nat
  deriving DecidableEq, Repr

/-- The codes of 60_exceptions.md R201. -/
inductive FaultCode where
  /-- `ERR_ILLEGAL`: the word matches no row of the opcode table. -/
  | illegal
  /-- `ERR_MODULUS`: the modulus operand is 0 or even. -/
  | modulus
  /-- `ERR_RANGE`: an operand makes an interval or an exponent empty or negative. -/
  | range
  deriving DecidableEq, Repr

/-- The whole architectural state of the engine (10_state.md R20), then three fields of the model's
own for the agents outside it (log entries 2, 3, 4). -/
structure State where
  /-- `R[0]` to `R[7]`, each a natural `< 2^W` (R12, R21; the bound is part of `State.Inv`). -/
  regs    : Vector Nat 8
  /-- `CTRL.IE_DONE` (R32). -/
  ieDone  : Bool
  /-- `CTRL.IE_ERR` (R32). -/
  ieErr   : Bool
  /-- `STATUS.BUSY` (R34). -/
  busy    : Bool
  /-- `STATUS.DONE` (R35). -/
  done    : Bool
  /-- `STATUS.HAZ` (R36). -/
  haz     : Bool
  /-- `STATUS.ERR`, 4 bits (R37). -/
  err     : BitVec 4
  /-- `STATUS.Z` (R39). -/
  z       : Bool
  /-- `STATUS.ONE` (R39). -/
  one     : Bool
  /-- `STATUS.PRIME` (R40). -/
  prime   : Bool
  /-- `STATUS.JRES`, 2 bits, two's complement (R38). -/
  jres    : BitVec 2
  /-- `CUR`, the last accepted command word (R41). -/
  cur     : Word
  /-- MODEL'S OWN: what happens next, oldest first; empty, the engine's turns go on for ever. -/
  agenda  : List Event
  /-- MODEL'S OWN: the random source's answers as a free input. -/
  source  : RandomSource
  /-- MODEL'S OWN: the words `HostRead` has returned to the host, newest first. -/
  replies : List Word
  deriving DecidableEq, Repr

/-- The state after reset (10_state.md R45): every piece of architectural state is 0. The model's own
fields are empty: nothing scheduled, no answer offered, nothing returned (log entries 2, 3, 4). -/
def State.reset : State where
  regs    := Vector.replicate 8 0
  ieDone  := false
  ieErr   := false
  busy    := false
  done    := false
  haz     := false
  err     := 0
  z       := false
  one     := false
  prime   := false
  jres    := 0
  cur     := 0
  agenda  := []
  source  := { answers := [], drawn := 0 }
  replies := []

/-- Where the model has no step ("stuck", 20_memory.md R55; 93_implementation_defined.md U36). No
COMMAND ends here: a command's fault is the `ERR` code of `FaultCode`, in a next state. All three are
raised by the bus port (Machine/Bus.lean) and are safe: the spec gives such an access no effect. -/
inductive Fault where
  /-- Raised by the bus port on a byte, halfword, 64-bit or burst access. Safe. -/
  | notAWordAccess (size : AccessSize)
  /-- Raised by the bus port on a word access at an offset that is no multiple of 4. Safe. -/
  | misaligned (off : Nat)
  /-- Raised by the bus port on an offset above `0x1FFC`, outside the block. Safe. -/
  | outsideBlock (off : Nat)
  deriving DecidableEq, Repr

/-- Why a step is refused. No arm of `exec` is refused, so none is raised. -/
inductive Refusal where
  /-- Raised by `exec` for an instruction with no meaning yet, by its mnemonic. Safe. -/
  | notModelled (mnemonic : String)
  deriving DecidableEq, Repr

/-- What a step or a meaning answers. -/
abbrev Result := Host.Outcome State Fault Refusal

end Sys2Proof.Machine
end

