-- ==== Sys2Proof/Machine/Arith.lean ====
section
/-! DEFINITION. The arithmetic of the four units as pure functions on exact naturals (00_scope.md R12
to R15), each what its family file says it returns. -/

namespace Sys2Proof.Machine.Arith

/-- `bitlen(x)`: 0 for 0, else the `k` with `2^(k-1) <= x < 2^k` (R14). -/
def bitlen (x : Nat) : Nat := if x = 0 then 0 else Nat.log2 x + 1

/-- `limb(v, j) = v[32*j+31 : 32*j]` (R15). -/
def limb (v j : Nat) : Word := BitVec.ofNat 32 (v / 2 ^ (32 * j))

/-- The register value with limb `j` replaced by `w`: the formula of 20_memory.md R59. -/
def setLimb (v j : Nat) (w : Word) : Nat :=
  v - (limb v j).toNat * 2 ^ (32 * j) + w.toNat * 2 ^ (32 * j)

/-- `sample(min, max, raw)` (41_sampler.md R107). -/
def sample (min max raw : Nat) : Nat := min + raw % (max - min + 1)

/-- The number of random bits one draw of the sampler asks for: `bitlen(max) + 1` (41_sampler.md
R108). -/
def drawBits (max : Nat) : Nat := bitlen max + 1

/-- `gcd(a, b)`, with `gcd(0, 0) = 0` and `gcd(a, 0) = a` (43_gcd.md R132). -/
def gcd (a b : Nat) : Nat := Nat.gcd a b

/-- `jacobi(2, n)`, rule 3 of 42_jacobi.md R116. -/
def jacobiTwo (n : Nat) : Int := if n % 8 = 1 ∨ n % 8 = 7 then 1 else -1

/-- The six rules of 42_jacobi.md R116 in their order, the first that applies being taken; the first
argument bounds the number of calls. -/
def jacobiCalls : Nat → Nat → Nat → Int
  | 0, _, _ => 0
  | f + 1, a, n =>
    if a = 0 then (if n = 1 then 1 else 0)
    else if a = 1 then 1
    else if a = 2 then jacobiTwo n
    else if n ≤ a then jacobiCalls f (a % n) n
    else if a % 2 = 0 then jacobiTwo n * jacobiCalls f (a / 2) n
    else if a % 4 = 3 ∧ n % 4 = 3 then -jacobiCalls f n a
    else jacobiCalls f n a

/-- `jacobi(a, n)` for odd `n` (42_jacobi.md R116). `2 * (a + n)`, counting one for a call whose first
argument is the smaller, falls at every call (R117), so the bound is never reached
(Laws/Jacobi.lean, `jacobi_unroll`). -/
def jacobi (a n : Nat) : Int := jacobiCalls (2 * (a + n) + 2) a n

/-- `j mod n` for a symbol `j` and `n >= 1`, in `0 .. n-1`, so that `-1` maps to `n - 1`
(00_scope.md R13). -/
def symbolMod (j : Int) (n : Nat) : Nat := (j % (n : Int)).toNat

/-- The left-to-right binary method of 44_modexp.md R146 on the low `k` bits of `e`: the bits above
bit 0 first, then square, then multiply if bit 0 is set. -/
def modexpBits (a n : Nat) : Nat → Nat → Nat
  | 0, _ => 1 % n
  | k + 1, e =>
    let r := modexpBits a n k (e / 2)
    if e % 2 = 1 then r * r % n * a % n else r * r % n

/-- `modexp(a, e, n)` for `n >= 1` (44_modexp.md R139), in the executable form of R146; it equals
`a ^ e % n` (Laws/Modexp.lean, `modexp_eq`). -/
def modexp (a e n : Nat) : Nat := modexpBits a n (bitlen e) e

/-- `modmul(a, b, n) = (a * b) mod n` for `n >= 1` (44_modexp.md R140). -/
def modmul (a b n : Nat) : Nat := a * b % n

/-- The Fermat power `s ^ (n - 2) mod n` for `n >= 3` (45_modinv.md R151). -/
def fermatPower (s n : Nat) : Nat := modexp s (n - 2) n

/-- The witness that one draw selects for the candidate `num` (46_ptest.md R157). -/
def witness (num raw : Nat) : Nat := sample 1 (num - 2) raw

/-- The two tests of one round on a witness `a`: the GCD test first, then the Euler test
(46_ptest.md R157); `true` is "pass". -/
def eulerTest (num a : Nat) : Bool :=
  if 1 < gcd a num then false
  else modexp a ((num - 1) / 2) num == symbolMod (jacobi a num) num

/-- One round on one draw (46_ptest.md R157); `true` is "pass". -/
def ssround (num raw : Nat) : Bool := eulerTest num (witness num raw)

end Sys2Proof.Machine.Arith
end

