-- ==== Sys2Proof/Machine/Operands.lean ====
section
/-! DEFINITION. The operand forms: a register by its number (30_encoding.md R82), the check of a
modulus operand (60_exceptions.md R201), and the offsets of the register block (20_memory.md R51). -/

namespace Sys2Proof.Machine

/-- Read operand register `R[i]` (00_scope.md R16). No register is hardwired (10_state.md R21). -/
def State.reg (s : State) (i : Reg) : Nat := s.regs.get i

/-- Write operand register: `R[i] <- v` (00_scope.md R16). -/
def State.setReg (i : Reg) (v : Nat) (s : State) : State := { s with regs := s.regs.set i.val v i.isLt }

/-- A modulus operand the engine refuses: 0 or even (60_exceptions.md R201, 44_modexp.md R145). -/
def badModulus (n : Nat) : Bool := decide (n = 0 ∨ n % 2 = 0)

/-- The offset of limb `j` of `R[i]` (20_memory.md R51). -/
def limbOffset (i : Reg) (j : Nat) : Nat := 0x1000 + 0x200 * i.val + 4 * j

/-- The address map (20_memory.md R51), for an offset of the block; limbs from `LIMBS` up are reserved
(R57). -/
def busTarget (c : Config.Params) (off : Nat) : BusTarget :=
  if off = 0x0000 then .id
  else if off = 0x0004 then .cfg
  else if off = 0x0008 then .ctrl
  else if off = 0x000C then .status
  else if off = 0x0010 then .cmd
  else if off < 0x1000 then .reserved
  else if (off - 0x1000) % 0x200 / 4 < c.limbs then
    .limb (Fin.ofNat 8 ((off - 0x1000) / 0x200)) ((off - 0x1000) % 0x200 / 4)
  else .reserved

/-- Why a host access has no step, if it has none: the engine takes aligned 32-bit words inside the
block only (20_memory.md R52, R55). -/
def accessFault (size : AccessSize) (off : Nat) : Option Fault :=
  if size ≠ .word then some (.notAWordAccess size)
  else if 0x1FFF < off then some (.outsideBlock off)
  else if off % 4 ≠ 0 then some (.misaligned off)
  else none

end Sys2Proof.Machine
end

