-- ==== Sys2Proof/Machine/Flags.lean ====
section
/-! DEFINITION. The result flags (10_state.md R27, R38 to R40), the words the control registers read
as (R30 to R33) and the interrupt line (R43). -/

namespace Sys2Proof.Machine

/-- `Z <- (v = 0)` and `ONE <- (v = 1)`, written together (10_state.md R39). -/
def State.setValueFlags (v : Nat) (s : State) : State :=
  { s with z := decide (v = 0), one := decide (v = 1) }

/-- The 2-bit code of a symbol: `00` for 0, `01` for `+1`, `11` for `-1` (10_state.md R38). -/
def jresOf (j : Int) : BitVec 2 := if j = 0 then 0b00#2 else if j = 1 then 0b01#2 else 0b11#2

/-- `STATUS.JRES` takes the symbol (42_jacobi.md R118). -/
def State.setJres (j : Int) (s : State) : State := { s with jres := jresOf j }

/-- The symbol `STATUS.JRES` holds, its sign extension (10_state.md R38). -/
def State.symbol (s : State) : Int := s.jres.toInt

/-- `STATUS.PRIME` takes the verdict (10_state.md R40). -/
def State.setPrime (b : Bool) (s : State) : State := { s with prime := b }

/-- The constant of `ID` (10_state.md R30). -/
def idWord : Word := 0x4C430001#32

/-- The constant of `CFG`: `LIMBS` in bits 7:0, `NREG = 8` in bits 11:8 (10_state.md R31). -/
def cfgWord (c : Config.Params) : Word := (8#4 ++ BitVec.ofNat 8 c.limbs).setWidth 32

/-- `CTRL` as read: bit 0 `IE_DONE`, bit 1 `IE_ERR`, the rest 0 (10_state.md R32). -/
def State.ctrlWord (s : State) : Word :=
  (BitVec.ofBool s.ieErr ++ BitVec.ofBool s.ieDone).setWidth 32

/-- `STATUS` as read (10_state.md R33): from bit 12 down, `JRES`, `PRIME`, `ONE`, `Z`, `ERR`, `ERRCLR`
(always 0), `HAZ`, `DONE`, `BUSY`; the bits above are 0. -/
def State.statusWord (s : State) : Word :=
  (s.jres ++ BitVec.ofBool s.prime ++ BitVec.ofBool s.one ++ BitVec.ofBool s.z ++ s.err
    ++ 0#1 ++ BitVec.ofBool s.haz ++ BitVec.ofBool s.done ++ BitVec.ofBool s.busy).setWidth 32

/-- The interrupt line, a function of the state (10_state.md R43). -/
def State.irq (s : State) : Bool := (s.ieDone && s.done) || (s.ieErr && s.err != 0)

end Sys2Proof.Machine
end

