-- ==== Sys2Proof/Machine/Ops.lean ====
section
/-! DEFINITION. The shared operations of a step: acceptance and refusal of a command (20_memory.md
R64, R65), the two ways a command completes (R68), the fault entry (60_exceptions.md R204) and the
return from it (R210), the host's writes to `CTRL` and `STATUS` (10_state.md R32, R33), the draw
(00_scope.md R17), reset (70_reset_and_hazards.md R230). -/

namespace Sys2Proof.Machine

/-- The code a fault writes to `STATUS.ERR` (60_exceptions.md R201). -/
def FaultCode.code : FaultCode → BitVec 4
  | .illegal => 1#4
  | .modulus => 2#4
  | .range => 3#4

/-- The end of a command without fault: `BUSY <- 0`, `DONE <- 1` (20_memory.md R68). -/
def State.finish (s : State) : State := { s with busy := false, done := true }

/-- The fault entry: `ERR <- code`, `BUSY <- 0`, `DONE <- 1`, and nothing more; there is no vector and
nothing is saved (60_exceptions.md R203, R204). -/
def State.takeFault (code : FaultCode) (s : State) : State :=
  { s with err := code.code, busy := false, done := true }

/-- The return from a fault: `ERR <- 0`; nothing is restored, because nothing was changed
(60_exceptions.md R210). -/
def State.clearErrIf (b : Bool) (s : State) : State := { s with err := if b then 0 else s.err }

/-- `DONE <- 0` (10_state.md R33). -/
def State.clearDoneIf (b : Bool) (s : State) : State := { s with done := s.done && !b }

/-- `HAZ <- 0` (10_state.md R33). -/
def State.clearHazIf (b : Bool) (s : State) : State := { s with haz := s.haz && !b }

/-- A host write of `v` to `STATUS`: bit 1 clears `DONE`, bit 2 clears `HAZ`, bit 3 clears `ERR`; every
other bit is ignored (10_state.md R33). -/
def State.writeStatus (v : Word) (s : State) : State :=
  ((s.clearDoneIf (v.getLsbD 1)).clearHazIf (v.getLsbD 2)).clearErrIf (v.getLsbD 3)

/-- A host write of `v` to `CTRL`: both fields from bits 1:0 (10_state.md R32). -/
def State.writeCtrl (v : Word) (s : State) : State :=
  { s with ieDone := v.getLsbD 0, ieErr := v.getLsbD 1 }

/-- The mark of a refused host access: `HAZ <- 1` (10_state.md R36). -/
def State.markHaz (s : State) : State := { s with haz := true }

/-- Acceptance: `CUR <- w`, `BUSY <- 1`, `DONE <- 0`, nothing else (20_memory.md R64). -/
def State.accept (w : Word) (s : State) : State := { s with cur := w, busy := true, done := false }

/-- A host write of `w` to `CMD`: accepted when idle and `ERR = 0` (20_memory.md R64), else dropped and
marked (R65). -/
def State.offer (w : Word) (s : State) : State :=
  if s.busy || s.err != 0 then s.markHaz else s.accept w

/-- The end of a value command: the value to `R[RD]`, `Z` and `ONE` from it (10_state.md R39), then
completion without fault. -/
def State.completeValue (rd : Reg) (v : Nat) (s : State) : State :=
  ((s.setReg rd v).setValueFlags v).finish

/-- `Draw(k)`: the source's next answer, a natural `< 2^k` (00_scope.md R17); the offered answer if
there is one, else a free value. -/
def RandomSource.draw (r : RandomSource) (k : Nat) : Nat :=
  r.answers.headD (Config.freeDraw r.drawn) % 2 ^ k

/-- The source after one draw: no answer is remembered or reused (00_scope.md R17). -/
def RandomSource.advance (r : RandomSource) : RandomSource :=
  { answers := r.answers.tail, drawn := r.drawn + 1 }

/-- The source after `m` draws. -/
def RandomSource.after (r : RandomSource) : Nat → RandomSource
  | 0 => r
  | m + 1 => r.advance.after m

/-- The random source moves on; it is no part of the engine's state. -/
def State.setSource (r : RandomSource) (s : State) : State := { s with source := r }

/-- The host receives a word (20_memory.md R52). -/
def State.reply (w : Word) (s : State) : State := { s with replies := w :: s.replies }

/-- What happens after the event now taken. -/
def State.setAgenda (rest : List Event) (s : State) : State := { s with agenda := rest }

/-- `Reset`: every piece of the engine's state takes its reset value (70_reset_and_hazards.md R230).
The agents outside keep theirs; the random source is not reset (R231). -/
def State.resetEngine (s : State) : State :=
  { State.reset with agenda := s.agenda, source := s.source, replies := s.replies }

end Sys2Proof.Machine
end

