-- ==== Sys2Proof/Machine/Bus.lean ====
section
/-! DEFINITION. The host's side of the port: the two host steps (20_memory.md R52 to R66). -/

namespace Sys2Proof.Machine

/-- `HostRead(off)` on a legal offset: the word returned, and the state, which only a read of an operand
limb while busy changes (20_memory.md R52, R56 to R58, R60, R66). -/
def hostRead (c : Config.Params) (off : Nat) (s : State) : Word × State :=
  match busTarget c off with
  | .id => (idWord, s)
  | .cfg => (cfgWord c, s)
  | .ctrl => (s.ctrlWord, s)
  | .status => (s.statusWord, s)
  | .cmd => (s.cur, s)
  | .reserved => (0, s)
  | .limb i j => if s.busy then (0, s.markHaz) else (Arith.limb (s.reg i) j, s)

/-- `HostWrite(off, v)` on a legal offset (20_memory.md R53, R56, R57, R59, R61, R64, R65). -/
def hostWrite (c : Config.Params) (off : Nat) (v : Word) (s : State) : State :=
  match busTarget c off with
  | .id => s
  | .cfg => s
  | .ctrl => s.writeCtrl v
  | .status => s.writeStatus v
  | .cmd => s.offer v
  | .reserved => s
  | .limb i j => if s.busy then s.markHaz else s.setReg i (Arith.setLimb (s.reg i) j v)

/-- The read as one step: stuck where the port takes no such access (20_memory.md R55), else the word
goes to the host. -/
def readStep (c : Config.Params) (size : AccessSize) (off : Nat) (s : State) : Result :=
  match accessFault size off with
  | some f => .fault f
  | none => .next ((hostRead c off s).2.reply (hostRead c off s).1)

/-- The write as one step: stuck where the port takes no such access (20_memory.md R55). -/
def writeStep (c : Config.Params) (size : AccessSize) (off : Nat) (v : Word) (s : State) : Result :=
  match accessFault size off with
  | some f => .fault f
  | none => .next (hostWrite c off v s)

end Sys2Proof.Machine
end

