-- ==== Sys2Proof/Machine/Control.lean ====
section
/-! DEFINITION. The control family: NOP (40_control.md). -/

namespace Sys2Proof.Machine

/-- NOP: no updates; the command completes (40_control.md R100). -/
def execNop (s : State) : Result := .next s.finish

end Sys2Proof.Machine
end

