-- ==== Sys2Proof/Machine/Gcd.lean ====
section
/-! DEFINITION. The greatest-common-divisor family: GCD (43_gcd.md). -/

namespace Sys2Proof.Machine

/-- GCD: defined for every pair of naturals, no fault (43_gcd.md R131). -/
def execGcd (rd ra rb : Reg) (s : State) : Result :=
  .next (s.completeValue rd (Arith.gcd (s.reg ra) (s.reg rb)))

end Sys2Proof.Machine
end

