-- ==== Sys2Proof/Machine/Jacobi.lean ====
section
/-! DEFINITION. The Jacobi-symbol family: JACOBI (42_jacobi.md). -/

namespace Sys2Proof.Machine

/-- JACOBI: `R[RD] <- j mod n`, `JRES <- j`, `Z` and `ONE` from the register value; `ERR_MODULUS` when
`n` is 0 or even (42_jacobi.md R118). -/
def execJacobi (rd ra rn : Reg) (s : State) : Result :=
  if badModulus (s.reg rn) then .next (s.takeFault .modulus)
  else
    .next ((s.completeValue rd
      (Arith.symbolMod (Arith.jacobi (s.reg ra) (s.reg rn)) (s.reg rn))).setJres
        (Arith.jacobi (s.reg ra) (s.reg rn)))

end Sys2Proof.Machine
end

