-- ==== Sys2Proof/Machine/Modexp.lean ====
section
/-! DEFINITION. The modular exponentiation and multiplication family: MODEXP, MODMUL
(44_modexp.md). -/

namespace Sys2Proof.Machine

/-- MODEXP: `(a ^ e) mod n`; `ERR_MODULUS` when `n` is 0 or even (44_modexp.md R138). -/
def execModexp (rd ra re rn : Reg) (s : State) : Result :=
  if badModulus (s.reg rn) then .next (s.takeFault .modulus)
  else .next (s.completeValue rd (Arith.modexp (s.reg ra) (s.reg re) (s.reg rn)))

/-- MODMUL: `(a * b) mod n`; `ERR_MODULUS` when `n` is 0 or even (44_modexp.md R142). -/
def execModmul (rd ra rb rn : Reg) (s : State) : Result :=
  if badModulus (s.reg rn) then .next (s.takeFault .modulus)
  else .next (s.completeValue rd (Arith.modmul (s.reg ra) (s.reg rb) (s.reg rn)))

end Sys2Proof.Machine
end

