-- ==== Sys2Proof/Machine/Modinv.lean ====
section
/-! DEFINITION. The modular-inverse family: MODINV (45_modinv.md). -/

namespace Sys2Proof.Machine

/-- MODINV: the Fermat power `s ^ (n - 2) mod n`; `ERR_MODULUS` when `n` is 0 or even, checked first,
then `ERR_RANGE` when `n = 1` (45_modinv.md R151; 60_exceptions.md R206). -/
def execModinv (rd rs rn : Reg) (s : State) : Result :=
  if badModulus (s.reg rn) then .next (s.takeFault .modulus)
  else if s.reg rn = 1 then .next (s.takeFault .range)
  else .next (s.completeValue rd (Arith.fermatPower (s.reg rs) (s.reg rn)))

end Sys2Proof.Machine
end

