-- ==== Sys2Proof/Machine/Ptest.lean ====
section
/-! DEFINITION. The candidate-testing family: PTEST (46_ptest.md). -/

namespace Sys2Proof.Machine

/-- The loop of 46_ptest.md R158 on `conf` rounds: one fresh draw a round, out at the first reject. The
verdict, and the source after the draws taken. -/
def ptestRounds (num : Nat) : Nat → RandomSource → Bool × RandomSource
  | 0, r => (true, r)
  | conf + 1, r =>
    if Arith.ssround num (r.draw (Arith.drawBits (num - 2))) then ptestRounds num conf r.advance
    else (false, r.advance)

/-- PTEST: `PRIME` takes the verdict of `conf` rounds and nothing else is written; `ERR_MODULUS` when
`num` is 0 or even, checked first, then `ERR_RANGE` when `num = 1`, both before any round and whatever
`conf` is (46_ptest.md R158). -/
def execPtest (rn : Reg) (conf : Nat) (s : State) : Result :=
  if badModulus (s.reg rn) then .next (s.takeFault .modulus)
  else if s.reg rn = 1 then .next (s.takeFault .range)
  else
    .next (((s.setPrime (ptestRounds (s.reg rn) conf s.source).1).setSource
      (ptestRounds (s.reg rn) conf s.source).2).finish)

end Sys2Proof.Machine
end

