-- ==== Sys2Proof/Machine/Sampler.lean ====
section
/-! DEFINITION. The range sampler family: SAMPLE (41_sampler.md). -/

namespace Sys2Proof.Machine

/-- SAMPLE: one draw of `bitlen(max) + 1` bits reduced into `[min, max]`; `ERR_RANGE`, and no draw,
when `max < min` (41_sampler.md R106). -/
def execSample (rd rmin rmax : Reg) (s : State) : Result :=
  if s.reg rmax < s.reg rmin then .next (s.takeFault .range)
  else
    .next ((s.completeValue rd
      (Arith.sample (s.reg rmin) (s.reg rmax) (s.source.draw (Arith.drawBits (s.reg rmax))))).setSource
        s.source.advance)

end Sys2Proof.Machine
end

