-- ==== Sys2Proof/Machine/Dispatch.lean ====
section
/-! DEFINITION. `exec`: the `Complete` step of a decoded command (20_memory.md R68, 30_encoding.md
R86), one arm per command, each one call of its meaning. -/

namespace Sys2Proof.Machine

def exec (i : Instr) (s : State) : Host.Outcome State Fault Refusal :=
  match i with
  | .nop => Sys2Proof.Machine.execNop s
  | .sample rd rmin rmax => Sys2Proof.Machine.execSample rd rmin rmax s
  | .jacobi rd ra rn => Sys2Proof.Machine.execJacobi rd ra rn s
  | .gcd rd ra rb => Sys2Proof.Machine.execGcd rd ra rb s
  | .modexp rd ra re rn => Sys2Proof.Machine.execModexp rd ra re rn s
  | .modmul rd ra rb rn => Sys2Proof.Machine.execModmul rd ra rb rn s
  | .modinv rd rs rn => Sys2Proof.Machine.execModinv rd rs rn s
  | .ptest rn conf => Sys2Proof.Machine.execPtest rn conf s

end Sys2Proof.Machine
end

