-- ==== Sys2Proof/Machine/Turn.lean ====
section
/-! DEFINITION. One place in the total order of 20_memory.md R70: the engine's turn, a host access or
a reset, taken from the head of the agenda. -/

namespace Sys2Proof.Machine

/-- The engine's turn: `Complete`, enabled exactly when `BUSY = 1`, decodes `CUR` and runs it; a word
that decodes to nothing completes with `ERR_ILLEGAL` (20_memory.md R68, 30_encoding.md R86, R87). An
idle engine does nothing (70_reset_and_hazards.md R231). -/
def engineTurn (s : State) : Result :=
  if s.busy then
    match decode s.cur with
    | .ok i => exec i s
    | .error _ => .next (s.takeFault .illegal)
  else .next s

/-- One event of the total order (00_scope.md R6, 20_memory.md R70). -/
def runEvent (c : Config.Params) (e : Event) (s : State) : Result :=
  match e with
  | .read size off => readStep c size off s
  | .write size off v => writeStep c size off v s
  | .engine => engineTurn s
  | .reset => .next s.resetEngine

/-- The event a step takes: the head of the agenda; when nothing more is scheduled, the engine's
turn. -/
def State.nextEvent (s : State) : Event := s.agenda.headD .engine

/-- The state a step's event acts on: what comes after the event is left in the agenda. -/
def State.rest (s : State) : State := s.setAgenda s.agenda.tail

/-- One step of an engine with parameters `c`: the next event of the total order. -/
def stepAt (c : Config.Params) (s : State) : Result := runEvent c s.nextEvent s.rest

/-- `k` steps of an engine with parameters `c`, stopping where there is no next state. -/
def runAt (c : Config.Params) : Nat → State → Result
  | 0, s => .next s
  | k + 1, s =>
    match stepAt c s with
    | .next t => runAt c k t
    | .fault f => .fault f
    | .refused r => .refused r

/-- The state in which the engine's next turn completes the command word `w`: `w` accepted
(20_memory.md R64) and the engine next to move. -/
def State.withCommand (w : Word) (s : State) : State := (s.accept w).setAgenda (.engine :: s.agenda)

end Sys2Proof.Machine
end

