-- ==== Sys2Proof/Machine/Step.lean ====
section
/-! DEFINITION. The machine's step, for the reference engine of `Config.engine`, and how the host of
this model places a command as the next to run. -/

namespace Sys2Proof.Machine

/-- One step of the reference engine (00_scope.md R7, `W = 2048`). -/
def step (s : State) : Host.Outcome State Fault Refusal := stepAt Config.engine s

/-- `s` with the command word of bits `w` accepted (20_memory.md R64) and the engine next to move, so
that the very next step completes it. The engine fetches nothing: the command in flight is `CUR`
(10_state.md R26; log entry 5). -/
def State.withFetchWord (s : State) (nbits w : Nat) : State :=
  s.withCommand (BitVec.ofNat 32 (w % 2 ^ nbits))

end Sys2Proof.Machine
end

