-- ==== Sys2Proof/Machine/HostSeq.lean ====
section
/-! DEFINITION. The host pseudo-instructions of 30_encoding.md R91 as the events they stand for, and
the host's chained form of PTEST (46_ptest.md R161). They are no commands of the engine; `IF cond GOTO
label` is the host's own control flow and has no event. -/

namespace Sys2Proof.Machine

/-- `LD Ri, v`: the limbs of `v`, limb 0 first. -/
def ldEvents (c : Config.Params) (i : Reg) (v : Nat) : List Event :=
  (List.range c.limbs).map fun j => .write .word (limbOffset i j) (Arith.limb v j)

/-- `ST Ri`: reads of the limbs, limb 0 first. -/
def stEvents (c : Config.Params) (i : Reg) : List Event :=
  (List.range c.limbs).map fun j => .read .word (limbOffset i j)

/-- The value of an `ST`, from the limbs read, limb 0 first (20_memory.md R54). -/
def stValue : List Word → Nat
  | [] => 0
  | w :: ws => w.toNat + 2 ^ 32 * stValue ws

/-- A command of 30_encoding.md R90: its word to `CMD`. -/
def commandEvent (i : Instr) : Event := .write .word 0x0010 (encode i)

/-- One poll of `STATUS`. -/
def pollEvent : Event := .read .word 0x000C

/-- `WAIT`: polls until one finds the engine idle. The engine's turn may fall after any number of
polls (20_memory.md R70), so that number is an argument. -/
def waitEvents (polls : Nat) : List Event := List.replicate polls pollEvent ++ [.engine, pollEvent]

/-- `ACK`: clear `DONE`. -/
def ackEvent : Event := .write .word 0x000C 0x00000002#32

/-- `CLRERR`: clear `DONE` and `ERR`. -/
def clrErrEvent : Event := .write .word 0x000C 0x0000000A#32

/-- `CLRHAZ`: clear `HAZ`. -/
def clrHazEvent : Event := .write .word 0x000C 0x00000004#32

/-! PTEST as the host chains it (46_ptest.md R161; program P1 of 95_test_vectors.md). -/

/-- The host offers a command and the engine takes its turn. -/
def runCommand (c : Config.Params) (i : Instr) (s : State) : Result :=
  runAt c 2 { s with agenda := commandEvent i :: .engine :: s.agenda }

/-- The next state of an outcome; the host goes on only from one. -/
def Result.next? : Result → Option State
  | .next t => some t
  | .fault _ => none
  | .refused _ => none

/-- The registers the host chooses for the chain: four it has loaded, four for results. -/
structure ChainRegs where
  num : Reg
  min : Reg
  max : Reg
  half : Reg
  witness : Reg
  divisor : Reg
  left : Reg
  symbol : Reg
  deriving DecidableEq, Repr

/-- The operands are loaded: the witness interval `[1, num - 2]` and the exponent `(num - 1) / 2`
(46_ptest.md R157). -/
abbrev ChainRegs.Loaded (r : ChainRegs) (s : State) : Prop :=
  s.reg r.min = 1 ∧ s.reg r.max = s.reg r.num - 2 ∧ s.reg r.half = (s.reg r.num - 1) / 2

/-- No result falls on an operand of a later command, nor on a value the host still compares. Any other
registers may coincide. -/
abbrev ChainRegs.Apart (r : ChainRegs) : Prop :=
  (∀ d ∈ [r.witness, r.divisor, r.left, r.symbol], d ∉ [r.num, r.min, r.max, r.half]) ∧
    r.witness ≠ r.divisor ∧ r.witness ≠ r.left ∧ r.left ≠ r.symbol

/-- One round of the chain: SAMPLE, GCD, reject unless `ONE`, MODEXP, JACOBI, and the comparison; `true`
is "pass". -/
def chainRound (c : Config.Params) (r : ChainRegs) (s : State) : Option (Bool × State) :=
  (runCommand c (.sample r.witness r.min r.max) s).next?.bind fun s =>
  (runCommand c (.gcd r.divisor r.witness r.num) s).next?.bind fun s =>
  if s.one then
    (runCommand c (.modexp r.left r.witness r.half r.num) s).next?.bind fun s =>
    (runCommand c (.jacobi r.symbol r.witness r.num) s).next?.map fun s =>
      (s.reg r.left == s.reg r.symbol, s)
  else some (false, s)

/-- Up to `conf` rounds of the chain, out at the first reject. -/
def chain (c : Config.Params) (r : ChainRegs) : Nat → State → Option (Bool × State)
  | 0, s => some (true, s)
  | conf + 1, s =>
    (chainRound c r s).bind fun p => if p.1 then chain c r conf p.2 else some p

end Sys2Proof.Machine
end

