-- ==== Sys2Proof/Safety.lean ====
section
/-! DEFINITION. The terms of the statements: what a safe state is, which host accesses are refused, and
the outcomes a command can have, written from the rules on plain records. -/

namespace Sys2Proof

/-- The destination register of a command (30_encoding.md R82); NOP and PTEST have none. -/
def Instr.dest : Instr → Option Reg
  | .nop => none
  | .sample rd _ _ => some rd
  | .jacobi rd _ _ => some rd
  | .gcd rd _ _ => some rd
  | .modexp rd _ _ _ => some rd
  | .modmul rd _ _ _ => some rd
  | .modinv rd _ _ => some rd
  | .ptest _ _ => none

/-- A field that 30_encoding.md R82 marks "must be 0" for the opcode of `w` is not 0. -/
def reservedFieldSet (w : Word) : Prop :=
  (fieldOP w = 0 ∧ (fieldRD w ≠ 0 ∨ fieldRA w ≠ 0 ∨ fieldRB w ≠ 0 ∨ fieldRN w ≠ 0 ∨ fieldIMM w ≠ 0)) ∨
  (fieldOP w = 1 ∧ (fieldRN w ≠ 0 ∨ fieldIMM w ≠ 0)) ∨
  (fieldOP w = 2 ∧ (fieldRB w ≠ 0 ∨ fieldIMM w ≠ 0)) ∨
  (fieldOP w = 3 ∧ (fieldRN w ≠ 0 ∨ fieldIMM w ≠ 0)) ∨
  (fieldOP w = 4 ∧ fieldIMM w ≠ 0) ∨
  (fieldOP w = 5 ∧ fieldIMM w ≠ 0) ∨
  (fieldOP w = 6 ∧ (fieldRB w ≠ 0 ∨ fieldIMM w ≠ 0)) ∨
  (fieldOP w = 7 ∧ (fieldRD w ≠ 0 ∨ fieldRA w ≠ 0 ∨ fieldRB w ≠ 0))

end Sys2Proof

namespace Sys2Proof.Machine

/-- The invariant of an engine with parameters `c`: every operand register holds a `W`-bit natural
(10_state.md R21); `ERR` is one of the codes of 60_exceptions.md R201; `JRES` is never `10` (R38); and
while a command is in flight `DONE` and `ERR` are 0 (R35, 20_memory.md R64). -/
structure State.Inv (c : Config.Params) (s : State) : Prop where
  regs_lt : ∀ i : Reg, s.reg i < 2 ^ c.W
  err_le  : s.err ≤ 3#4
  jres_ne : s.jres ≠ 0b10#2
  in_flight : s.busy = true → s.done = false ∧ s.err = 0#4

/-- The event is a host access the engine refuses in `s`: an operand limb while busy, or an offer to
`CMD` while busy or while `ERR != 0` (10_state.md R36). -/
def Refuses (c : Config.Params) (e : Event) (s : State) : Prop :=
  match e with
  | .read _ off => s.busy = true ∧ ∃ i j, busTarget c off = .limb i j
  | .write _ off _ =>
    (s.busy = true ∧ ∃ i j, busTarget c off = .limb i j) ∨
      (busTarget c off = .cmd ∧ (s.busy = true ∨ s.err ≠ 0#4))
  | .engine => False
  | .reset => False

/-- The next state of a command that writes `v` to `R[rd]` and ends without fault: `Z` and `ONE`
describe `v` (10_state.md R39), `BUSY <- 0`, `DONE <- 1` (20_memory.md R68), and nothing else. -/
def State.wrote (s : State) (rd : Reg) (v : Nat) : State :=
  { s with
    regs := s.regs.set rd.val v rd.isLt
    z := decide (v = 0)
    one := decide (v = 1)
    busy := false
    done := true }

/-- The next state of a command that faults with `code`, and of nothing else (60_exceptions.md
R204). -/
def State.faulted (s : State) (code : BitVec 4) : State :=
  { s with err := code, busy := false, done := true }

/-- The fault code a command ends with on the operands in `s`, 0 for none: the table of
60_exceptions.md R202, the causes in the order of R206. -/
def faultOn (i : Instr) (s : State) : BitVec 4 :=
  match i with
  | .nop => 0
  | .sample _ rmin rmax => if s.reg rmax < s.reg rmin then 3 else 0
  | .jacobi _ _ rn => if s.reg rn % 2 = 0 then 2 else 0
  | .gcd _ _ _ => 0
  | .modexp _ _ _ rn => if s.reg rn % 2 = 0 then 2 else 0
  | .modmul _ _ _ rn => if s.reg rn % 2 = 0 then 2 else 0
  | .modinv _ _ rn => if s.reg rn % 2 = 0 then 2 else if s.reg rn = 1 then 3 else 0
  | .ptest rn _ => if s.reg rn % 2 = 0 then 2 else if s.reg rn = 1 then 3 else 0

end Sys2Proof.Machine
end

