-- ==== Sys2Proof/Certificates/Slice0/Obligations.lean ====
section
/-! DEFINITION. The statements for the provers, each a `def Obligations.<Name> : Prop`. Statements about
a step are made for every engine (`Config.Params`) and so for every `W` (00_scope.md R7); `step` is the
reference engine's. -/

open Sys2Proof Sys2Proof.Machine

/-! ## Encoding -/

/-- Every well-formed command, with every operand its encoding admits, is read back from its word
(30_encoding.md R81, R92). -/
def Obligations.DecodeOfEncode : Prop := ∀ i : Instr, i.wf = true → decode (encode i) = .ok i

/-- A word that decodes is the encoding of the well-formed command it decodes to: no bit is ignored
(30_encoding.md R84, R86, R88). -/
def Obligations.EncodeOfDecode : Prop :=
  ∀ (w : Word) (i : Instr), decode w = .ok i → i.wf = true ∧ encode i = w

/-- 30_encoding.md R87: a word is illegal in exactly two cases, and then completes with `ERR_ILLEGAL`
and no other effect; with the rule's five examples. -/
def Obligations.IllegalWordsAreExactlyTwoCases : Prop :=
  (∀ w : Word, (∃ e, decode w = .error e) ↔ (8 ≤ (fieldOP w).toNat ∨ reservedFieldSet w)) ∧
  (∀ (c : Config.Params) (s : State) (e : DecodeError), s.nextEvent = .engine → s.busy = true →
    decode s.cur = .error e → stepAt c s = .next (s.rest.faulted 1)) ∧
  (∀ w ∈ [0x08000000#32, 0x00000001#32, 0x01299000#32, 0x04811001#32, 0x07201020#32],
    ∃ e, decode w = .error e)

/-- Words written out from the encodings of 30_encoding.md R84 and the worked examples of files 41 to
46 decode to the commands they stand for. -/
def Obligations.WorkedWordsDecode : Prop :=
  decode 0b00000000000000000000000000000000#32 = .ok .nop ∧
  decode 0b00000001001010011000000000000000#32 = .ok (.sample 1 2 3) ∧
  decode 0b00000010010000000001000000000000#32 = .ok (.jacobi 2 0 1) ∧
  decode 0b00000011011000001000000000000000#32 = .ok (.gcd 3 0 1) ∧
  decode 0b00000100100000010001000000000000#32 = .ok (.modexp 4 0 2 1) ∧
  decode 0b00000101101100110001000000000000#32 = .ok (.modmul 5 4 6 1) ∧
  decode 0b00000110110100000001000000000000#32 = .ok (.modinv 6 4 1) ∧
  decode 0b00000111000000000111111111111111#32 = .ok (.ptest 7 4095)

/-! ## The step -/

/-- A step whose event is the engine's turn, with a command in flight, is `exec` of the command `CUR`
decodes to (20_memory.md R68, 30_encoding.md R86); `step` is that of the reference engine, and
`withFetchWord` makes any command word the next to complete. The agenda is the model's choice (log
entries 2, 5). -/
def Obligations.StepRunsTheDecodedCommand : Prop :=
  (∀ (c : Config.Params) (s : State) (i : Instr), s.nextEvent = .engine → s.busy = true →
    decode s.cur = .ok i → stepAt c s = exec i s.rest) ∧
  (∀ s : State, step s = stepAt Config.engine s) ∧
  (∀ (s : State) (w : Word) (i : Instr), decode w = .ok i →
    step (s.withFetchWord 32 w.toNat) = exec i { s with cur := w, busy := true, done := false })

/-- 20_memory.md R68 and R200: with a command in flight the engine's turn always completes it, with a
fault or without: `BUSY` 0, `DONE` 1, `CUR`, `HAZ` and `CTRL` kept. -/
def Obligations.EveryCommandCompletes : Prop :=
  ∀ (c : Config.Params) (s : State), s.nextEvent = .engine → s.busy = true →
    ∃ t, stepAt c s = .next t ∧ t.busy = false ∧ t.done = true ∧ t.cur = s.cur ∧ t.haz = s.haz ∧
      t.ieDone = s.ieDone ∧ t.ieErr = s.ieErr

/-- An idle engine keeps all state: its own turn and every host read change nothing, but for what the
host has received, which the model keeps in `replies` (60_exceptions.md R221, 20_memory.md R66, R71;
log entries 2, 4). -/
def Obligations.IdleEngineKeepsItsState : Prop :=
  ∀ (c : Config.Params) (s t : State), s.busy = false →
    (s.nextEvent = .engine ∨ ∃ size off, s.nextEvent = .read size off) → stepAt c s = .next t →
    ∃ received, t = { s.rest with replies := received ++ s.replies } ∧ received.length ≤ 1

/-- 20_memory.md R55: the model has a step for an access exactly when it is an aligned 32-bit word
inside the block; nothing else stops a step, and no step is refused. That the model is stuck by a
named fault is log entry 10. -/
def Obligations.OnlyNonWordAccessesAreStuck : Prop :=
  ∀ (c : Config.Params) (s : State),
    ((∃ f, stepAt c s = .fault f) ↔
      ∃ size off, (s.nextEvent = .read size off ∨ ∃ v, s.nextEvent = .write size off v) ∧
        (size ≠ .word ∨ off % 4 ≠ 0 ∨ 0x1FFC < off)) ∧
    (∀ r, stepAt c s ≠ .refused r)

/-! ## The commands -/

/-- 40_control.md R100: NOP updates nothing and completes, so that `irq` rises if `IE_DONE = 1`; it is
the single word 0, every other word with `OP = 0x00` being illegal; it leaves `STATUS = 0x00000002`
after reset, and is refused like any command while `ERR != 0`. -/
def Obligations.NopMeaning : Prop :=
  (∀ s : State, exec .nop s = .next { s with busy := false, done := true }) ∧
  (∀ s t : State, s.ieDone = true → exec .nop s = .next t → t.irq = true) ∧
  (∀ w : Word, decode w = .ok .nop ↔ w = 0) ∧
  (∀ w : Word, fieldOP w = 0 → w ≠ 0 → ∃ e, decode w = .error e) ∧
  (∀ t, exec .nop State.reset = .next t → t.statusWord = 0x00000002#32) ∧
  (∀ (c : Config.Params) (s : State), s.nextEvent = .write .word 0x0010 (encode .nop) →
    s.err ≠ 0 → stepAt c s = .next { s.rest with haz := true })

/-- 41_sampler.md R106: SAMPLE writes `min + raw mod (max - min + 1)` for one draw of
`bitlen(max) + 1` bits; on `max < min` it ends with `ERR_RANGE` and takes no draw. -/
def Obligations.SampleMeaning : Prop :=
  ∀ (rd rmin rmax : Reg) (s : State),
    (∀ w : Word, decode w = .ok (.sample rd rmin rmax) ↔
      w &&& 0xFF007FFF#32 = 0x01000000#32 ∧ fieldRD w = rd ∧ fieldRA w = rmin ∧ fieldRB w = rmax) ∧
    (s.reg rmin ≤ s.reg rmax →
      exec (.sample rd rmin rmax) s =
        .next { s.wrote rd (s.reg rmin +
                  s.source.draw (Arith.bitlen (s.reg rmax) + 1) %
                    (s.reg rmax - s.reg rmin + 1)) with
                source := s.source.advance }) ∧
    (s.reg rmax < s.reg rmin → exec (.sample rd rmin rmax) s = .next (s.faulted 3))

/-- 41_sampler.md R107, R108: every raw answer of `bitlen(max) + 1` bits may be what the source draws,
the result is then `min + raw mod (max - min + 1)`, and the set of possible results of SAMPLE is exactly
`{min, ..., max}`. -/
def Obligations.SampleReachesExactlyItsInterval : Prop :=
  ∀ (rd rmin rmax : Reg) (s : State), s.reg rmin ≤ s.reg rmax →
    (∀ raw < 2 ^ (Arith.bitlen (s.reg rmax) + 1), ∃ (src : RandomSource) (t : State),
      src.draw (Arith.bitlen (s.reg rmax) + 1) = raw ∧
      exec (.sample rd rmin rmax) { s with source := src } = .next t ∧
        t.reg rd = s.reg rmin + raw % (s.reg rmax - s.reg rmin + 1)) ∧
    (∀ r : Nat,
      (∃ (src : RandomSource) (t : State),
        exec (.sample rd rmin rmax) { s with source := src } = .next t ∧ t.reg rd = r) ↔
      s.reg rmin ≤ r ∧ r ≤ s.reg rmax)

/-- 00_scope.md R17: a draw is below `2^k`, every natural below `2^k` is a possible answer, and two
draws are unrelated. -/
def Obligations.DrawsAreFreeAndUnrelated : Prop :=
  (∀ (src : RandomSource) (k : Nat), src.draw k < 2 ^ k) ∧
  (∀ k m x y : Nat, x < 2 ^ k → y < 2 ^ m →
    ∃ src : RandomSource, src.draw k = x ∧ src.advance.draw m = y)

/-- 00_scope.md R14: `bitlen(0) = 0`, and for `x >= 1` it is the unique `k` with
`2^(k-1) <= x < 2^k`. -/
def Obligations.BitlenIsTheShortestBinaryForm : Prop :=
  Arith.bitlen 0 = 0 ∧
  ∀ x k : Nat, 1 ≤ x → (Arith.bitlen x = k ↔ 1 ≤ k ∧ 2 ^ (k - 1) ≤ x ∧ x < 2 ^ k)

/-- 42_jacobi.md R118: with `j` the symbol of R116, JACOBI writes `j mod n` and `JRES`; for `n = 1` the
symbol is always +1 and the value 0; with `n` even or 0 it ends with `ERR_MODULUS`. -/
def Obligations.JacobiMeaning : Prop :=
  ∀ (rd ra rn : Reg) (s : State),
    (∀ w : Word, decode w = .ok (.jacobi rd ra rn) ↔
      w &&& 0xFF038FFF#32 = 0x02000000#32 ∧ fieldRD w = rd ∧ fieldRA w = ra ∧ fieldRN w = rn) ∧
    (s.reg rn = 1 →
      Arith.jacobi (s.reg ra) (s.reg rn) = 1 ∧
        exec (.jacobi rd ra rn) s = .next { s.wrote rd 0 with jres := 0b01 }) ∧
    (s.reg rn % 2 = 1 →
      (Arith.jacobi (s.reg ra) (s.reg rn) = 0 ∧
        exec (.jacobi rd ra rn) s = .next { s.wrote rd 0 with jres := 0b00 }) ∨
      (Arith.jacobi (s.reg ra) (s.reg rn) = 1 ∧
        exec (.jacobi rd ra rn) s = .next { s.wrote rd (1 % s.reg rn) with jres := 0b01 }) ∨
      (Arith.jacobi (s.reg ra) (s.reg rn) = -1 ∧ 3 ≤ s.reg rn ∧
        exec (.jacobi rd ra rn) s = .next { s.wrote rd (s.reg rn - 1) with jres := 0b11 })) ∧
    (s.reg rn % 2 = 0 → exec (.jacobi rd ra rn) s = .next (s.faulted 2))

/-- 42_jacobi.md R116: the symbol is -1, 0 or +1 and obeys the six rules tried in the order written,
for every odd modulus. -/
def Obligations.JacobiObeysItsSixRules : Prop :=
  ∀ a n : Nat, n % 2 = 1 →
    (Arith.jacobi a n = -1 ∨ Arith.jacobi a n = 0 ∨ Arith.jacobi a n = 1) ∧
    (a = 0 → Arith.jacobi a n = if n = 1 then 1 else 0) ∧
    (a = 1 → Arith.jacobi a n = 1) ∧
    (a = 2 → Arith.jacobi a n = if n % 8 = 1 ∨ n % 8 = 7 then 1 else -1) ∧
    (3 ≤ a → n ≤ a → Arith.jacobi a n = Arith.jacobi (a % n) n) ∧
    (3 ≤ a → a < n → a % 2 = 0 →
      Arith.jacobi a n = Arith.jacobi 2 n * Arith.jacobi (a / 2) n) ∧
    (3 ≤ a → a < n → a % 4 = 3 → n % 4 = 3 → Arith.jacobi a n = -Arith.jacobi n a) ∧
    (3 ≤ a → a < n → a % 2 = 1 → ¬(a % 4 = 3 ∧ n % 4 = 3) →
      Arith.jacobi a n = Arith.jacobi n a)

/-- 42_jacobi.md R119: the function of R116 is the mathematical Jacobi symbol; it is 0 exactly when
`gcd(a, n) > 1`; and Euler's criterion holds at an odd prime. -/
def Obligations.JacobiIsTheJacobiSymbol : Prop :=
  ∀ a n : Nat, n % 2 = 1 →
    Arith.jacobi a n = jacobiSym (a : Int) n ∧
    (Arith.jacobi a n = 0 ↔ 1 < Nat.gcd a n) ∧
    (n.Prime → Arith.jacobi a n % (n : Int) = ((a ^ ((n - 1) / 2) % n : Nat) : Int))

/-- 43_gcd.md R131, R132: GCD writes the largest natural that divides both operands, 0 for two
zeros; it has no fault. -/
def Obligations.GcdMeaning : Prop :=
  ∀ (rd ra rb : Reg) (s : State),
    (∀ w : Word, decode w = .ok (.gcd rd ra rb) ↔
      w &&& 0xFF007FFF#32 = 0x03000000#32 ∧ fieldRD w = rd ∧ fieldRA w = ra ∧ fieldRB w = rb) ∧
    ∃ g : Nat,
    exec (.gcd rd ra rb) s = .next (s.wrote rd g) ∧
    g ∣ s.reg ra ∧ g ∣ s.reg rb ∧
    (s.reg ra = 0 → s.reg rb = 0 → g = 0) ∧
    (¬(s.reg ra = 0 ∧ s.reg rb = 0) → ∀ d, d ∣ s.reg ra → d ∣ s.reg rb → d ≤ g)

/-- 44_modexp.md R138, R139: MODEXP writes `(a ^ e) mod n`, the exact power, on an odd modulus; on an
even or zero one it ends with `ERR_MODULUS`. -/
def Obligations.ModexpMeaning : Prop :=
  ∀ (rd ra re rn : Reg) (s : State),
    (∀ w : Word, decode w = .ok (.modexp rd ra re rn) ↔
      w &&& 0xFF000FFF#32 = 0x04000000#32 ∧ fieldRD w = rd ∧ fieldRA w = ra ∧ fieldRB w = re ∧
        fieldRN w = rn) ∧
    (s.reg rn % 2 = 1 →
      exec (.modexp rd ra re rn) s = .next (s.wrote rd (s.reg ra ^ s.reg re % s.reg rn))) ∧
    (s.reg rn % 2 = 0 → exec (.modexp rd ra re rn) s = .next (s.faulted 2))

/-- 44_modexp.md R142: MODMUL writes `(a * b) mod n` on an odd modulus; on an even or zero one it ends
with `ERR_MODULUS`. -/
def Obligations.ModmulMeaning : Prop :=
  ∀ (rd ra rb rn : Reg) (s : State),
    (∀ w : Word, decode w = .ok (.modmul rd ra rb rn) ↔
      w &&& 0xFF000FFF#32 = 0x05000000#32 ∧ fieldRD w = rd ∧ fieldRA w = ra ∧ fieldRB w = rb ∧
        fieldRN w = rn) ∧
    (s.reg rn % 2 = 1 →
      exec (.modmul rd ra rb rn) s = .next (s.wrote rd (s.reg ra * s.reg rb % s.reg rn))) ∧
    (s.reg rn % 2 = 0 → exec (.modmul rd ra rb rn) s = .next (s.faulted 2))

/-- 45_modinv.md R151: MODINV writes `s ^ (n - 2) mod n` for odd `n >= 3`; `n` even or 0 ends with
`ERR_MODULUS`, `n = 1` with `ERR_RANGE`. -/
def Obligations.ModinvMeaning : Prop :=
  ∀ (rd rs rn : Reg) (s : State),
    (∀ w : Word, decode w = .ok (.modinv rd rs rn) ↔
      w &&& 0xFF038FFF#32 = 0x06000000#32 ∧ fieldRD w = rd ∧ fieldRA w = rs ∧ fieldRN w = rn) ∧
    (s.reg rn % 2 = 1 → 3 ≤ s.reg rn →
      exec (.modinv rd rs rn) s =
        .next (s.wrote rd (s.reg rs ^ (s.reg rn - 2) % s.reg rn))) ∧
    (s.reg rn % 2 = 0 → exec (.modinv rd rs rn) s = .next (s.faulted 2)) ∧
    (s.reg rn = 1 → exec (.modinv rd rs rn) s = .next (s.faulted 3))

/-- 45_modinv.md R151, corner cases: for an odd prime `n` and `s` not `0 mod n`, MODINV's result is the
inverse; for `s mod n = 0` it is 0, with no fault. -/
def Obligations.ModinvInvertsModuloAPrime : Prop :=
  ∀ (rd rs rn : Reg) (s : State), (s.reg rn).Prime → s.reg rn ≠ 2 →
    ∃ t, exec (.modinv rd rs rn) s = .next t ∧ t.err = s.err ∧
      (s.reg rs % s.reg rn ≠ 0 → s.reg rs * t.reg rd % s.reg rn = 1) ∧
      (s.reg rs % s.reg rn = 0 → t.reg rd = 0 ∧ t.z = true)

/-- 46_ptest.md R157: a round passes exactly when the witness `1 + raw mod (num - 2)` is coprime to
`num` and its power `(num - 1) / 2` is the symbol's residue. -/
def Obligations.RoundPassesExactlyOnTheTwoTests : Prop :=
  ∀ num raw a : Nat, num % 2 = 1 → 3 ≤ num → a = 1 + raw % (num - 2) →
    (Arith.ssround num raw = true ↔
      Nat.gcd a num = 1 ∧
        ((a ^ ((num - 1) / 2) % num : Nat) : Int) = Arith.jacobi a num % (num : Int))

/-- 46_ptest.md R158: PTEST runs rounds with one fresh draw each, stops at the first that rejects, and
writes only `PRIME`; `num` even or 0 ends with `ERR_MODULUS`, `num = 1` with `ERR_RANGE`, whatever
`conf` is. -/
def Obligations.PtestMeaning : Prop :=
  ∀ (rn : Reg) (conf : Nat) (s : State) (passes : Nat → Bool),
    (∀ i, passes i =
      Arith.ssround (s.reg rn) ((s.source.after i).draw (Arith.bitlen (s.reg rn - 2) + 1))) →
    (∀ w : Word, decode w = .ok (.ptest rn conf) ↔
      w &&& 0xFFFF8000#32 = 0x07000000#32 ∧ fieldRN w = rn ∧ fieldIMM w = conf) ∧
    (s.reg rn % 2 = 1 → 3 ≤ s.reg rn → (∀ i < conf, passes i = true) →
      exec (.ptest rn conf) s =
        .next { s with prime := true, source := s.source.after conf, busy := false, done := true }) ∧
    (s.reg rn % 2 = 1 → 3 ≤ s.reg rn → ∀ i < conf, (∀ j < i, passes j = true) →
      passes i = false →
      exec (.ptest rn conf) s =
        .next { s with
                prime := false, source := s.source.after (i + 1), busy := false, done := true }) ∧
    (s.reg rn % 2 = 0 → exec (.ptest rn conf) s = .next (s.faulted 2)) ∧
    (s.reg rn = 1 → exec (.ptest rn conf) s = .next (s.faulted 3))

/-- 46_ptest.md R160: (a) a prime is accepted for every `conf` and every draws; (b) a 0 verdict means
composite; (c) for a composite and `conf >= 1` both verdicts are possible. -/
def Obligations.PtestPromises : Prop :=
  ∀ (rn : Reg) (conf : Nat) (s : State), s.reg rn % 2 = 1 → 3 ≤ s.reg rn →
    ((s.reg rn).Prime → ∃ t, exec (.ptest rn conf) s = .next t ∧ t.prime = true) ∧
    (∀ t, exec (.ptest rn conf) s = .next t → t.prime = false → ¬(s.reg rn).Prime) ∧
    (¬(s.reg rn).Prime → 1 ≤ conf →
      (∃ (src : RandomSource) (t : State),
        exec (.ptest rn conf) { s with source := src } = .next t ∧ t.prime = false) ∧
      (∃ (src : RandomSource) (t : State),
        exec (.ptest rn conf) { s with source := src } = .next t ∧ t.prime = true))

/-- 46_ptest.md R161, one round, on any registers the host chooses: PTEST's verdict and its draw are
those of the chain SAMPLE, GCD, MODEXP, JACOBI and a comparison, from the same state, all four commands
run. -/
def Obligations.PtestRoundEqualsTheChain : Prop :=
  ∀ (r : ChainRegs) (s s1 s2 s3 s4 u : State), r.Apart → r.Loaded s → s.reg r.num % 2 = 1 →
    3 ≤ s.reg r.num →
    exec (.sample r.witness r.min r.max) s = .next s1 →
    exec (.gcd r.divisor r.witness r.num) s1 = .next s2 →
    exec (.modexp r.left r.witness r.half r.num) s2 = .next s3 →
    exec (.jacobi r.symbol r.witness r.num) s3 = .next s4 →
    exec (.ptest r.num 1) s = .next u →
    u.prime = (s2.one && decide (s4.reg r.left = s4.reg r.symbol)) ∧ u.source = s4.source ∧
      u.regs = s.regs

/-- 60_exceptions.md R202: which command raises which fault, on which operands; a faulting command has
no effect but those of R204, and any word that does not decode raises `ERR_ILLEGAL`. -/
def Obligations.FaultTable : Prop :=
  (∀ (i : Instr) (s : State),
    (faultOn i s ≠ 0 → exec i s = .next (s.faulted (faultOn i s))) ∧
    (faultOn i s = 0 → ∃ t, exec i s = .next t ∧ t.err = s.err)) ∧
  (∀ (s : State) (e : DecodeError), s.busy = true → decode s.cur = .error e →
    engineTurn s = .next (s.faulted 1))

/-- 10_state.md R27, R24 and 60_exceptions.md R204: the frame of every command. A register is kept
unless it is the destination of a command that ends without fault; `Z` and `ONE` are kept by NOP, PTEST
and every fault; `JRES` changes only in JACOBI and `PRIME` only in PTEST; only SAMPLE and PTEST take
draws; `HAZ`, `CTRL`, `CUR` and what lies outside the engine are kept by all. -/
def Obligations.CommandFrame : Prop :=
  ∀ (i : Instr) (s t : State), exec i s = .next t →
    (∀ k : Reg, i.dest ≠ some k ∨ faultOn i s ≠ 0 → t.reg k = s.reg k) ∧
    (i.dest = none ∨ faultOn i s ≠ 0 → t.z = s.z ∧ t.one = s.one) ∧
    ((∀ rd ra rn, i ≠ .jacobi rd ra rn) ∨ faultOn i s ≠ 0 → t.jres = s.jres) ∧
    ((∀ rn conf, i ≠ .ptest rn conf) ∨ faultOn i s ≠ 0 → t.prime = s.prime) ∧
    (((∀ rd a b, i ≠ .sample rd a b) ∧ ∀ rn conf, i ≠ .ptest rn conf) ∨ faultOn i s ≠ 0 →
      t.source = s.source) ∧
    t.haz = s.haz ∧ t.ieDone = s.ieDone ∧ t.ieErr = s.ieErr ∧ t.cur = s.cur ∧
    t.agenda = s.agenda ∧ t.replies = s.replies

/-- 10_state.md R39: after a value command that ends without fault, `Z` and `ONE` describe the value in
its destination register; NOP, PTEST and every fault leave both, and reset clears both. -/
def Obligations.ValueFlagsDescribeTheDestination : Prop :=
  (∀ (i : Instr) (rd : Reg) (s t : State), i.dest = some rd → faultOn i s = 0 →
    exec i s = .next t →
    (t.z = true ↔ t.reg rd = 0) ∧ (t.one = true ↔ t.reg rd = 1)) ∧
  (∀ (i : Instr) (s t : State), i.dest = none ∨ faultOn i s ≠ 0 → exec i s = .next t →
    t.z = s.z ∧ t.one = s.one) ∧
  State.reset.z = false ∧ State.reset.one = false

/-- 44_modexp.md R148: the bound of each command's result, and so no register ever holds more than `W`
bits. -/
def Obligations.ResultsFitTheirDestination : Prop :=
  (∀ (rd ra rb rn : Reg) (s t : State),
    (s.reg ra ≤ s.reg rb → exec (.sample rd ra rb) s = .next t → t.reg rd ≤ s.reg rb) ∧
    (s.reg rn % 2 = 1 → exec (.jacobi rd ra rn) s = .next t → t.reg rd ≤ s.reg rn - 1) ∧
    (exec (.gcd rd ra rb) s = .next t → t.reg rd ≤ Nat.max (s.reg ra) (s.reg rb)) ∧
    (s.reg rn % 2 = 1 → exec (.modexp rd ra rb rn) s = .next t → t.reg rd ≤ s.reg rn - 1) ∧
    (s.reg rn % 2 = 1 → exec (.modmul rd ra rb rn) s = .next t → t.reg rd ≤ s.reg rn - 1) ∧
    (s.reg rn % 2 = 1 → 3 ≤ s.reg rn → exec (.modinv rd ra rn) s = .next t →
      t.reg rd ≤ s.reg rn - 1)) ∧
  (∀ (c : Config.Params) (i : Instr) (s t : State), (∀ k : Reg, s.reg k < 2 ^ c.W) →
    exec i s = .next t → ∀ k : Reg, t.reg k < 2 ^ c.W)

/-! ## The invariant -/

/-- Every step of every engine keeps the invariant: registers of `W` bits, legal `ERR` and `JRES`
codes, and `DONE = ERR = 0` while a command is in flight (10_state.md R21, R35, R37, R38). -/
def Obligations.StepKeepsTheInvariant : Prop :=
  ∀ (c : Config.Params) (s t : State), s.Inv c → stepAt c s = .next t → t.Inv c

/-- The state after reset has the invariant, whatever `W` is. -/
def Obligations.ResetHasTheInvariant : Prop := ∀ c : Config.Params, State.reset.Inv c

/-! ## Reset -/

/-- 10_state.md R45: the value of every piece of state after reset, with `irq` deasserted and `STATUS`
reading 0. -/
def Obligations.ResetValues : Prop :=
  (∀ i : Reg, State.reset.reg i = 0) ∧ State.reset.ieDone = false ∧ State.reset.ieErr = false ∧
  State.reset.busy = false ∧ State.reset.done = false ∧ State.reset.haz = false ∧
  State.reset.err = 0 ∧ State.reset.z = false ∧ State.reset.one = false ∧
  State.reset.prime = false ∧ State.reset.jres = 0b00 ∧ State.reset.cur = 0x00000000#32 ∧
  State.reset.irq = false ∧ State.reset.statusWord = 0x00000000#32

/-- 70_reset_and_hazards.md R230, 10_state.md R45: `Reset` at any point gives every piece of state its
reset value, a command in flight included. That the random source is not reset is R231; that the
model's own agenda and replies go on is log entry 13. -/
def Obligations.ResetAtAnyPoint : Prop :=
  ∀ (c : Config.Params) (s : State), s.nextEvent = .reset →
    stepAt c s =
      .next { State.reset with agenda := s.agenda.tail, source := s.source, replies := s.replies }

/-! ## The command protocol -/

/-- 20_memory.md R64: acceptance. -/
def Obligations.CommandAccepted : Prop :=
  ∀ (c : Config.Params) (s : State) (w : Word), s.nextEvent = .write .word 0x0010 w →
    s.busy = false → s.err = 0 →
    stepAt c s = .next { s.rest with cur := w, busy := true, done := false }

/-- 20_memory.md R65: refusal; the word is lost and only `HAZ` changes. -/
def Obligations.CommandRefused : Prop :=
  ∀ (c : Config.Params) (s : State) (w : Word), s.nextEvent = .write .word 0x0010 w →
    (s.busy = true ∨ s.err ≠ 0) → stepAt c s = .next { s.rest with haz := true }

/-- 10_state.md R34: `BUSY` goes up only in the acceptance of a command and down only in its
completion or in reset. -/
def Obligations.BusyFollowsTheCommandInFlight : Prop :=
  ∀ (c : Config.Params) (s t : State), stepAt c s = .next t →
    (s.busy = false → (t.busy = true ↔ ∃ w, s.nextEvent = .write .word 0x0010 w ∧ s.err = 0)) ∧
    (s.busy = true → (t.busy = false ↔ s.nextEvent = .engine ∨ s.nextEvent = .reset))

/-- 10_state.md R35: `DONE` is set by every completion and nothing else, and is cleared by acceptance,
by a host write of 1 to bit 1 of `STATUS`, and by reset. -/
def Obligations.DoneIsSetByCompletionsOnly : Prop :=
  ∀ (c : Config.Params) (s t : State), stepAt c s = .next t →
    (s.nextEvent = .engine → s.busy = true → t.done = true) ∧
    (s.done = false → t.done = true → s.nextEvent = .engine ∧ s.busy = true) ∧
    (s.done = true →
      (t.done = false ↔
        s.nextEvent = .reset ∨
        (∃ v, s.nextEvent = .write .word 0x000C v ∧ v.getLsbD 1 = true) ∨
        (∃ w, s.nextEvent = .write .word 0x0010 w ∧ s.busy = false ∧ s.err = 0)))

/-- 10_state.md R36: `HAZ` is set by every refused host access and nothing else, and only a host write
of 1 to bit 2 of `STATUS`, or reset, clears it. -/
def Obligations.HazMarksRefusedAccesses : Prop :=
  ∀ (c : Config.Params) (s t : State), stepAt c s = .next t →
    (Refuses c s.nextEvent s → t.haz = true) ∧
    (s.haz = false → t.haz = true → Refuses c s.nextEvent s) ∧
    (s.haz = true →
      (t.haz = false ↔
        s.nextEvent = .reset ∨
        ∃ v, s.nextEvent = .write .word 0x000C v ∧ v.getLsbD 2 = true))

/-- 10_state.md R36, its last clauses: `HAZ` stops nothing, blocks no command and raises no interrupt.
Two states that differ only in `HAZ` step to states that differ only in `HAZ` and, when the step is a
read of `STATUS`, in the word just read. -/
def Obligations.HazIsInert : Prop :=
  ∀ (c : Config.Params) (s t : State) (b : Bool), stepAt c s = .next t →
    ∃ u, stepAt c { s with haz := b } = .next u ∧
      t = { u with haz := t.haz, replies := t.replies } ∧ t.irq = u.irq ∧
      (t.replies = u.replies ∨
        s.nextEvent = .read .word 0x000C ∧ t.replies = s.statusWord :: s.replies ∧
          u.replies = ({ s with haz := b } : State).statusWord :: s.replies)

/-- 70_reset_and_hazards.md R237: a refused access never corrupts the engine: `HAZ` is set and nothing
else of the engine changes, the command in flight untouched; a refused read gives the host the word 0
(20_memory.md R60), a refused write nothing. -/
def Obligations.RefusedAccessOnlySetsHaz : Prop :=
  ∀ (c : Config.Params) (s t : State), Refuses c s.nextEvent s → stepAt c s = .next t →
    (∃ size off, s.nextEvent = .read size off ∧
      t = { s.rest with haz := true, replies := 0 :: s.replies }) ∨
    (∃ size off v, s.nextEvent = .write size off v ∧ t = { s.rest with haz := true })

/-- 70_reset_and_hazards.md R236: a host whose every access keeps the protocol never sees `HAZ` set,
over runs of any length. -/
def Obligations.ProtocolKeepingHostNeverSeesHaz : Prop :=
  ∀ (c : Config.Params) (k : Nat) (s t : State), s.haz = false →
    (∀ (m : Nat) (u : State), m < k → runAt c m s = .next u → ¬Refuses c u.nextEvent u) →
    runAt c k s = .next t → t.haz = false

/-- 60_exceptions.md R211, R212 and 10_state.md R37: `ERR` is written only by a completion that faults,
never over an earlier fault, and is cleared only by a host write of 1 to bit 3 of `STATUS` or by
reset. The premise is the invariant: no command is in flight while `ERR != 0`. -/
def Obligations.ErrIsStickyUntilCleared : Prop :=
  ∀ (c : Config.Params) (s t : State), s.Inv c → stepAt c s = .next t →
    (s.err = 0 → t.err ≠ 0 →
      s.nextEvent = .engine ∧ s.busy = true ∧ t = s.rest.faulted t.err) ∧
    (s.err ≠ 0 →
      t.err = s.err ∨
      (t.err = 0 ∧
        (s.nextEvent = .reset ∨
          ∃ v, s.nextEvent = .write .word 0x000C v ∧ v.getLsbD 3 = true)))

/-- 20_memory.md R62, R73: between acceptance and completion no operand register changes, nor the
command word. -/
def Obligations.OperandsAndCommandAreFrozenInFlight : Prop :=
  ∀ (c : Config.Params) (s t : State), s.busy = true → t.busy = true → stepAt c s = .next t →
    t.regs = s.regs ∧ t.cur = s.cur

/-- 10_state.md R24, R25: an operand register changes only by reset, by a host write of one of its
limbs while idle, or by the completion without fault of a command whose destination it is. -/
def Obligations.RegistersChangeOnlyByTheirWriters : Prop :=
  ∀ (c : Config.Params) (s t : State) (k : Reg), stepAt c s = .next t → t.reg k ≠ s.reg k →
    s.nextEvent = .reset ∨
    (s.busy = false ∧
      ∃ j v, j < c.limbs ∧ s.nextEvent = .write .word (0x1000 + 0x200 * k.val + 4 * j) v) ∨
    (s.busy = true ∧ s.nextEvent = .engine ∧
      ∃ i, decode s.cur = .ok i ∧ i.dest = some k ∧ faultOn i s = 0)

/-! ## The registers of the block -/

/-- 10_state.md R30, R31, R41 and 20_memory.md R66: reads of `ID`, `CFG` and `CMD` at any time, and
writes to the first two, which are ignored. -/
def Obligations.IdentificationRegisters : Prop :=
  ∀ (c : Config.Params) (s : State), c.Valid →
    (s.nextEvent = .read .word 0x0000 →
      stepAt c s = .next { s.rest with replies := 0x4C430001#32 :: s.replies }) ∧
    (s.nextEvent = .read .word 0x0004 → ∃ w : Word,
      stepAt c s = .next { s.rest with replies := w :: s.replies } ∧
      (w.extractLsb' 0 8).toNat = c.limbs ∧ w.extractLsb' 8 4 = 8 ∧ w.extractLsb' 12 20 = 0) ∧
    (s.nextEvent = .read .word 0x0010 →
      stepAt c s = .next { s.rest with replies := s.cur :: s.replies }) ∧
    (∀ v, s.nextEvent = .write .word 0x0000 v ∨ s.nextEvent = .write .word 0x0004 v →
      stepAt c s = .next s.rest)

/-- 10_state.md R32: `CTRL`, readable and writable at any time: both fields from bits 1:0 of a written
word, the rest ignored and read as 0; what each field enables; both 0 after reset. -/
def Obligations.CtrlRegister : Prop :=
  State.reset.ieDone = false ∧ State.reset.ieErr = false ∧
  ∀ (c : Config.Params) (s : State),
    (s.ieDone = true → s.done = true → s.irq = true) ∧
    (s.ieErr = true → s.err ≠ 0 → s.irq = true) ∧
    (∀ v, s.nextEvent = .write .word 0x0008 v →
      stepAt c s = .next { s.rest with ieDone := v.getLsbD 0, ieErr := v.getLsbD 1 }) ∧
    (s.nextEvent = .read .word 0x0008 → ∃ w : Word,
      stepAt c s = .next { s.rest with replies := w :: s.replies } ∧
      w.getLsbD 0 = s.ieDone ∧ w.getLsbD 1 = s.ieErr ∧ w.extractLsb' 2 30 = 0)

/-- 10_state.md R33: `STATUS`, the place of every field on a read, and the three bits a write acts
on, at any time; it reads 0 after reset. -/
def Obligations.StatusRegister : Prop :=
  State.reset.statusWord = 0 ∧
  ∀ (c : Config.Params) (s : State),
    (s.nextEvent = .read .word 0x000C → ∃ w : Word,
      stepAt c s = .next { s.rest with replies := w :: s.replies } ∧
      w.getLsbD 0 = s.busy ∧ w.getLsbD 1 = s.done ∧ w.getLsbD 2 = s.haz ∧ w.getLsbD 3 = false ∧
      w.extractLsb' 4 4 = s.err ∧ w.getLsbD 8 = s.z ∧ w.getLsbD 9 = s.one ∧
      w.getLsbD 10 = s.prime ∧ w.extractLsb' 11 2 = s.jres ∧ w.extractLsb' 13 19 = 0) ∧
    (∀ v, s.nextEvent = .write .word 0x000C v →
      stepAt c s =
        .next { s.rest with
                done := if v.getLsbD 1 = true then false else s.done
                haz := if v.getLsbD 2 = true then false else s.haz
                err := if v.getLsbD 3 = true then 0 else s.err })

/-- 20_memory.md R58, R60: a read of an operand limb returns it while idle, whatever `ERR`, `DONE` and
`HAZ` are, and while busy returns 0 and sets `HAZ`. -/
def Obligations.OperandLimbReads : Prop :=
  ∀ (c : Config.Params) (s : State) (i : Reg) (j : Nat), c.Valid → j < c.limbs →
    s.nextEvent = .read .word (0x1000 + 0x200 * i.val + 4 * j) →
    (s.busy = false → ∃ w : Word,
      stepAt c s = .next { s.rest with replies := w :: s.replies } ∧
      w.toNat = s.reg i / 2 ^ (32 * j) % 2 ^ 32) ∧
    (s.busy = true →
      stepAt c s = .next { s.rest with haz := true, replies := 0 :: s.replies })

/-- 20_memory.md R59, R61: a write of an operand limb replaces that limb while idle and leaves the
other limbs, all other registers and all flags unchanged; while busy it is dropped and sets `HAZ`. -/
def Obligations.OperandLimbWrites : Prop :=
  ∀ (c : Config.Params) (s : State) (i : Reg) (j : Nat) (v : Word), c.Valid → j < c.limbs →
    s.nextEvent = .write .word (0x1000 + 0x200 * i.val + 4 * j) v →
    (s.busy = false → ∃ x : Nat,
      stepAt c s = .next { s.rest with regs := s.regs.set i.val x i.isLt } ∧
      x + s.reg i / 2 ^ (32 * j) % 2 ^ 32 * 2 ^ (32 * j) = s.reg i + v.toNat * 2 ^ (32 * j) ∧
      x / 2 ^ (32 * j) % 2 ^ 32 = v.toNat ∧
      ∀ m, m ≠ j → x / 2 ^ (32 * m) % 2 ^ 32 = s.reg i / 2 ^ (32 * m) % 2 ^ 32) ∧
    (s.busy = true → stepAt c s = .next { s.rest with haz := true })

/-- 20_memory.md R57, and R56 for its offsets: the reserved offsets, the limbs from `LIMBS` up among
them, read as 0 and ignore writes, whether or not a command is in flight, and set no `HAZ`. -/
def Obligations.ReservedOffsets : Prop :=
  ∀ (c : Config.Params) (s : State) (off : Nat), c.Valid →
    ((0x0014 ≤ off ∧ off ≤ 0x0FFC ∧ off % 4 = 0) ∨
      ∃ (i : Reg) (j : Nat), c.limbs ≤ j ∧ j ≤ 127 ∧ off = 0x1000 + 0x200 * i.val + 4 * j) →
    (s.nextEvent = .read .word off →
      stepAt c s = .next { s.rest with replies := 0 :: s.replies }) ∧
    (∀ v, s.nextEvent = .write .word off v → stepAt c s = .next s.rest)

/-- 20_memory.md R54: the natural held by `R[i]` is the sum of its limbs as the host reads them, limb 0
the least significant, when no command is in flight. -/
def Obligations.RegisterIsTheSumOfItsLimbs : Prop :=
  ∀ (c : Config.Params) (s : State) (i : Reg), c.Valid → s.Inv c → s.busy = false →
    ∑ j ∈ Finset.range c.limbs,
      (hostRead c (0x1000 + 0x200 * i.val + 4 * j) s).1.toNat * 2 ^ (32 * j) = s.reg i

/-- 30_encoding.md R91, `LD Ri, v`: from an idle engine the limb writes, limb 0 first, leave `v` in the
register whatever it held, and change nothing else. -/
def Obligations.LoadSequenceLoadsTheRegister : Prop :=
  ∀ (c : Config.Params) (s : State) (i : Reg) (v : Nat) (rest : List Event), c.Valid → s.Inv c →
    s.busy = false → v < 2 ^ c.W →
    runAt c c.limbs { s with agenda := ldEvents c i v ++ rest } =
      .next { s with regs := s.regs.set i.val v i.isLt, agenda := rest }

/-! ## The interrupt -/

/-- 10_state.md R43, 60_exceptions.md R208: the line is asserted exactly while an enabled cause holds.
It changes only in a completion, a host write or reset: R209 names the first two, and reset, which
deasserts it (10_state.md R45), is the model's reading, log entry 13. -/
def Obligations.InterruptLine : Prop :=
  (∀ s : State,
    s.irq = true ↔ (s.ieDone = true ∧ s.done = true) ∨ (s.ieErr = true ∧ s.err ≠ 0)) ∧
  (∀ (c : Config.Params) (s t : State), stepAt c s = .next t → t.irq ≠ s.irq →
    (s.nextEvent = .engine ∧ s.busy = true) ∨ s.nextEvent = .reset ∨
      ∃ off v, s.nextEvent = .write .word off v)

/-! ## The cipher the engine serves -/

/-- 47_host_sequences.md R176, R177 (95_test_vectors.md S-6, the algebra of the round trip): with the
engine's functions, decryption of `(c, d)` under the secret `x` gives back the block `m` encrypted under
`h = g^x` with any ephemeral `y`. -/
def Obligations.EngineArithmeticDecryptsWhatItEncrypts : Prop :=
  ∀ p g x y m h c d s : Nat, p.Prime → p ≠ 2 → g % p ≠ 0 → m < p →
    h = Arith.modexp g x p → c = Arith.modexp g y p →
    d = Arith.modmul m (Arith.modexp h y p) p → s = Arith.modexp c x p →
    Arith.modmul d (Arith.fermatPower s p) p = m

/-! ## The host's chained form of PTEST -/

/-- 46_ptest.md R161: PTEST with `conf` rounds answers what the host finds by issuing the chain up to
`conf` times, stopping at the first reject, on any registers it chooses that keep apart: the same
verdict from the same draws. The chain writes its four result registers, `Z`, `ONE` and `JRES`; PTEST
writes only `PRIME`. -/
def Obligations.PtestEqualsTheChain : Prop :=
  ∀ (c : Config.Params) (r : ChainRegs) (conf : Nat) (s : State), conf < 4096 →
    s.busy = false → s.err = 0 → r.Apart → r.Loaded s → s.reg r.num % 2 = 1 → 3 ≤ s.reg r.num →
    ∃ (verdict : Bool) (t u : State),
      chain c r conf s = some (verdict, t) ∧ runCommand c (.ptest r.num conf) s = .next u ∧
      t.source = u.source ∧
      u = { s with
            prime := verdict, source := u.source, cur := encode (.ptest r.num conf), done := true } ∧
      t = { s with
            regs := t.regs, z := t.z, one := t.one, jres := t.jres, source := t.source
            cur := t.cur, done := t.done } ∧
      ∀ k ∉ [r.witness, r.divisor, r.left, r.symbol], t.reg k = s.reg k
end

