-- ==== Sys2Proof/Laws/Arith.lean ====
section
/-! SUPPORT. The pure functions of Machine/Arith.lean: bit length, limbs, the sampler, the symbol's
residue. -/

namespace Sys2Proof.Machine.Arith

theorem lt_two_pow_bitlen (x : Nat) : x < 2 ^ bitlen x := by
  unfold bitlen
  split
  · simp_all
  · exact Nat.lt_log2_self

theorem two_pow_le_of_bitlen {x k : Nat} (hx : x ≠ 0) (h : bitlen x = k + 1) : 2 ^ k ≤ x := by
  have hk : Nat.log2 x = k := by simpa [bitlen, hx] using h
  exact hk ▸ Nat.log2_self_le hx

/-- A draw of `drawBits max` bits reaches every residue the sampler uses (41_sampler.md R108). -/
theorem lt_two_pow_drawBits (max : Nat) : 2 * max < 2 ^ drawBits max := by
  have := lt_two_pow_bitlen max
  rw [drawBits, pow_succ]
  omega

/-- A slot of 32 bits between a low part and a high part: the arithmetic of one limb. -/
theorem slot_parts (v j : Nat) :
    v = v % 2 ^ (32 * j) + v / 2 ^ (32 * j) % 2 ^ 32 * 2 ^ (32 * j)
      + v / 2 ^ (32 * (j + 1)) * 2 ^ (32 * (j + 1)) := by
  have h1 := Nat.mod_add_div v (2 ^ (32 * j))
  have h2 := Nat.mod_add_div (v / 2 ^ (32 * j)) (2 ^ 32)
  have h3 : v / 2 ^ (32 * (j + 1)) = v / 2 ^ (32 * j) / 2 ^ 32 := by
    rw [Nat.div_div_eq_div_mul, ← pow_add, Nat.mul_succ]
  rw [h3, Nat.mul_succ, pow_add]
  calc v = v % 2 ^ (32 * j) + 2 ^ (32 * j) * (v / 2 ^ (32 * j)) := h1.symm
    _ = v % 2 ^ (32 * j) + 2 ^ (32 * j) *
          (v / 2 ^ (32 * j) % 2 ^ 32 + 2 ^ 32 * (v / 2 ^ (32 * j) / 2 ^ 32)) := by rw [h2]
    _ = _ := by ring

theorem limb_toNat (v j : Nat) : (limb v j).toNat = v / 2 ^ (32 * j) % 2 ^ 32 := by
  simp [limb]

/-- What writing one limb does (20_memory.md R59): the low part, the new limb, the high part. -/
theorem setLimb_eq (v j : Nat) (w : Word) :
    setLimb v j w =
      v % 2 ^ (32 * j) + w.toNat * 2 ^ (32 * j) + v / 2 ^ (32 * (j + 1)) * 2 ^ (32 * (j + 1)) := by
  have h := slot_parts v j
  rw [setLimb, limb_toNat]
  omega

theorem mod_two_pow_succ_limb (v j : Nat) :
    v % 2 ^ (32 * (j + 1)) = v % 2 ^ (32 * j) + (limb v j).toNat * 2 ^ (32 * j) := by
  have h := slot_parts v j
  have h2 := Nat.mod_add_div v (2 ^ (32 * (j + 1)))
  rw [limb_toNat]
  rw [Nat.mul_comm (2 ^ (32 * (j + 1)))] at h2
  omega

theorem le_sample (min max raw : Nat) : min ≤ sample min max raw := Nat.le_add_right _ _

theorem sample_le {min max : Nat} (h : min ≤ max) (raw : Nat) : sample min max raw ≤ max := by
  have : raw % (max - min + 1) < max - min + 1 := Nat.mod_lt _ (Nat.succ_pos _)
  unfold sample
  omega

theorem symbolMod_lt (j : Int) {n : Nat} (h : n ≠ 0) : symbolMod j n < n := by
  have h1 := Int.emod_nonneg j (b := (n : Int)) (by omega)
  have h2 := Int.emod_lt_of_pos j (b := (n : Int)) (by omega)
  unfold symbolMod
  omega

@[simp] theorem symbolMod_zero (n : Nat) : symbolMod 0 n = 0 := by simp [symbolMod]

theorem symbolMod_one {n : Nat} (h : 2 ≤ n) : symbolMod 1 n = 1 := by
  have : (1 : Int) % (n : Int) = 1 := Int.emod_eq_of_lt (by omega) (by omega)
  simp [symbolMod, this]

/-- "mapping -1 -> num-1" (00_scope.md R13). -/
theorem symbolMod_neg_one {n : Nat} (h : 2 ≤ n) : symbolMod (-1) n = n - 1 := by
  have : (-1 : Int) % (n : Int) = n - 1 := by
    rw [← Int.add_emod_right, Int.emod_eq_of_lt] <;> omega
  unfold symbolMod
  omega

theorem modmul_lt (a b : Nat) {n : Nat} (h : n ≠ 0) : modmul a b n < n :=
  Nat.mod_lt _ (Nat.pos_of_ne_zero h)

/-- The two tests of a round, in either order: the witness is coprime to `num` and the Euler test holds
(46_ptest.md R157). -/
theorem eulerTest_eq {num : Nat} (h : num ≠ 0) (a : Nat) :
    eulerTest num a =
      (decide (gcd a num = 1) && modexp a ((num - 1) / 2) num == symbolMod (jacobi a num) num) := by
  have hpos : 0 < gcd a num := Nat.gcd_pos_of_pos_right a (by omega)
  unfold eulerTest
  split
  · next hgt => simp [show gcd a num ≠ 1 by omega]
  · next hle => simp [show gcd a num = 1 by omega]

end Sys2Proof.Machine.Arith
end

