-- ==== Sys2Proof/Laws/State.lean ====
section
/-! SUPPORT. One lemma per field of `State` per elementary update, so that no later proof unfolds a
record update; and what the composed updates `writeStatus` and `completeValue` do. -/

namespace Sys2Proof.Machine.State

variable (s : State)

/-! `setReg` -/

@[simp] theorem setReg_regs (i : Reg) (v : Nat) : (s.setReg i v).regs = s.regs.set i.val v i.isLt := rfl
@[simp] theorem setReg_ieDone (i : Reg) (v : Nat) : (s.setReg i v).ieDone = s.ieDone := rfl
@[simp] theorem setReg_ieErr (i : Reg) (v : Nat) : (s.setReg i v).ieErr = s.ieErr := rfl
@[simp] theorem setReg_busy (i : Reg) (v : Nat) : (s.setReg i v).busy = s.busy := rfl
@[simp] theorem setReg_done (i : Reg) (v : Nat) : (s.setReg i v).done = s.done := rfl
@[simp] theorem setReg_haz (i : Reg) (v : Nat) : (s.setReg i v).haz = s.haz := rfl
@[simp] theorem setReg_err (i : Reg) (v : Nat) : (s.setReg i v).err = s.err := rfl
@[simp] theorem setReg_z (i : Reg) (v : Nat) : (s.setReg i v).z = s.z := rfl
@[simp] theorem setReg_one (i : Reg) (v : Nat) : (s.setReg i v).one = s.one := rfl
@[simp] theorem setReg_prime (i : Reg) (v : Nat) : (s.setReg i v).prime = s.prime := rfl
@[simp] theorem setReg_jres (i : Reg) (v : Nat) : (s.setReg i v).jres = s.jres := rfl
@[simp] theorem setReg_cur (i : Reg) (v : Nat) : (s.setReg i v).cur = s.cur := rfl
@[simp] theorem setReg_agenda (i : Reg) (v : Nat) : (s.setReg i v).agenda = s.agenda := rfl
@[simp] theorem setReg_source (i : Reg) (v : Nat) : (s.setReg i v).source = s.source := rfl
@[simp] theorem setReg_replies (i : Reg) (v : Nat) : (s.setReg i v).replies = s.replies := rfl

/-! `setValueFlags` -/

@[simp] theorem setValueFlags_regs (v : Nat) : (s.setValueFlags v).regs = s.regs := rfl
@[simp] theorem setValueFlags_ieDone (v : Nat) : (s.setValueFlags v).ieDone = s.ieDone := rfl
@[simp] theorem setValueFlags_ieErr (v : Nat) : (s.setValueFlags v).ieErr = s.ieErr := rfl
@[simp] theorem setValueFlags_busy (v : Nat) : (s.setValueFlags v).busy = s.busy := rfl
@[simp] theorem setValueFlags_done (v : Nat) : (s.setValueFlags v).done = s.done := rfl
@[simp] theorem setValueFlags_haz (v : Nat) : (s.setValueFlags v).haz = s.haz := rfl
@[simp] theorem setValueFlags_err (v : Nat) : (s.setValueFlags v).err = s.err := rfl
@[simp] theorem setValueFlags_z (v : Nat) : (s.setValueFlags v).z = decide (v = 0) := rfl
@[simp] theorem setValueFlags_one (v : Nat) : (s.setValueFlags v).one = decide (v = 1) := rfl
@[simp] theorem setValueFlags_prime (v : Nat) : (s.setValueFlags v).prime = s.prime := rfl
@[simp] theorem setValueFlags_jres (v : Nat) : (s.setValueFlags v).jres = s.jres := rfl
@[simp] theorem setValueFlags_cur (v : Nat) : (s.setValueFlags v).cur = s.cur := rfl
@[simp] theorem setValueFlags_agenda (v : Nat) : (s.setValueFlags v).agenda = s.agenda := rfl
@[simp] theorem setValueFlags_source (v : Nat) : (s.setValueFlags v).source = s.source := rfl
@[simp] theorem setValueFlags_replies (v : Nat) : (s.setValueFlags v).replies = s.replies := rfl
@[simp] theorem setValueFlags_reg (v : Nat) (k : Reg) : (s.setValueFlags v).reg k = s.reg k := rfl

/-! `setJres` -/

@[simp] theorem setJres_regs (j : Int) : (s.setJres j).regs = s.regs := rfl
@[simp] theorem setJres_ieDone (j : Int) : (s.setJres j).ieDone = s.ieDone := rfl
@[simp] theorem setJres_ieErr (j : Int) : (s.setJres j).ieErr = s.ieErr := rfl
@[simp] theorem setJres_busy (j : Int) : (s.setJres j).busy = s.busy := rfl
@[simp] theorem setJres_done (j : Int) : (s.setJres j).done = s.done := rfl
@[simp] theorem setJres_haz (j : Int) : (s.setJres j).haz = s.haz := rfl
@[simp] theorem setJres_err (j : Int) : (s.setJres j).err = s.err := rfl
@[simp] theorem setJres_z (j : Int) : (s.setJres j).z = s.z := rfl
@[simp] theorem setJres_one (j : Int) : (s.setJres j).one = s.one := rfl
@[simp] theorem setJres_prime (j : Int) : (s.setJres j).prime = s.prime := rfl
@[simp] theorem setJres_jres (j : Int) : (s.setJres j).jres = jresOf j := rfl
@[simp] theorem setJres_cur (j : Int) : (s.setJres j).cur = s.cur := rfl
@[simp] theorem setJres_agenda (j : Int) : (s.setJres j).agenda = s.agenda := rfl
@[simp] theorem setJres_source (j : Int) : (s.setJres j).source = s.source := rfl
@[simp] theorem setJres_replies (j : Int) : (s.setJres j).replies = s.replies := rfl
@[simp] theorem setJres_reg (j : Int) (k : Reg) : (s.setJres j).reg k = s.reg k := rfl

/-! `setPrime` -/

@[simp] theorem setPrime_regs (b : Bool) : (s.setPrime b).regs = s.regs := rfl
@[simp] theorem setPrime_ieDone (b : Bool) : (s.setPrime b).ieDone = s.ieDone := rfl
@[simp] theorem setPrime_ieErr (b : Bool) : (s.setPrime b).ieErr = s.ieErr := rfl
@[simp] theorem setPrime_busy (b : Bool) : (s.setPrime b).busy = s.busy := rfl
@[simp] theorem setPrime_done (b : Bool) : (s.setPrime b).done = s.done := rfl
@[simp] theorem setPrime_haz (b : Bool) : (s.setPrime b).haz = s.haz := rfl
@[simp] theorem setPrime_err (b : Bool) : (s.setPrime b).err = s.err := rfl
@[simp] theorem setPrime_z (b : Bool) : (s.setPrime b).z = s.z := rfl
@[simp] theorem setPrime_one (b : Bool) : (s.setPrime b).one = s.one := rfl
@[simp] theorem setPrime_prime (b : Bool) : (s.setPrime b).prime = b := rfl
@[simp] theorem setPrime_jres (b : Bool) : (s.setPrime b).jres = s.jres := rfl
@[simp] theorem setPrime_cur (b : Bool) : (s.setPrime b).cur = s.cur := rfl
@[simp] theorem setPrime_agenda (b : Bool) : (s.setPrime b).agenda = s.agenda := rfl
@[simp] theorem setPrime_source (b : Bool) : (s.setPrime b).source = s.source := rfl
@[simp] theorem setPrime_replies (b : Bool) : (s.setPrime b).replies = s.replies := rfl
@[simp] theorem setPrime_reg (b : Bool) (k : Reg) : (s.setPrime b).reg k = s.reg k := rfl

/-! `finish` -/

@[simp] theorem finish_regs : s.finish.regs = s.regs := rfl
@[simp] theorem finish_ieDone : s.finish.ieDone = s.ieDone := rfl
@[simp] theorem finish_ieErr : s.finish.ieErr = s.ieErr := rfl
@[simp] theorem finish_busy : s.finish.busy = false := rfl
@[simp] theorem finish_done : s.finish.done = true := rfl
@[simp] theorem finish_haz : s.finish.haz = s.haz := rfl
@[simp] theorem finish_err : s.finish.err = s.err := rfl
@[simp] theorem finish_z : s.finish.z = s.z := rfl
@[simp] theorem finish_one : s.finish.one = s.one := rfl
@[simp] theorem finish_prime : s.finish.prime = s.prime := rfl
@[simp] theorem finish_jres : s.finish.jres = s.jres := rfl
@[simp] theorem finish_cur : s.finish.cur = s.cur := rfl
@[simp] theorem finish_agenda : s.finish.agenda = s.agenda := rfl
@[simp] theorem finish_source : s.finish.source = s.source := rfl
@[simp] theorem finish_replies : s.finish.replies = s.replies := rfl
@[simp] theorem finish_reg (k : Reg) : s.finish.reg k = s.reg k := rfl

/-! `takeFault` -/

@[simp] theorem takeFault_regs (e : FaultCode) : (s.takeFault e).regs = s.regs := rfl
@[simp] theorem takeFault_ieDone (e : FaultCode) : (s.takeFault e).ieDone = s.ieDone := rfl
@[simp] theorem takeFault_ieErr (e : FaultCode) : (s.takeFault e).ieErr = s.ieErr := rfl
@[simp] theorem takeFault_busy (e : FaultCode) : (s.takeFault e).busy = false := rfl
@[simp] theorem takeFault_done (e : FaultCode) : (s.takeFault e).done = true := rfl
@[simp] theorem takeFault_haz (e : FaultCode) : (s.takeFault e).haz = s.haz := rfl
@[simp] theorem takeFault_err (e : FaultCode) : (s.takeFault e).err = e.code := rfl
@[simp] theorem takeFault_z (e : FaultCode) : (s.takeFault e).z = s.z := rfl
@[simp] theorem takeFault_one (e : FaultCode) : (s.takeFault e).one = s.one := rfl
@[simp] theorem takeFault_prime (e : FaultCode) : (s.takeFault e).prime = s.prime := rfl
@[simp] theorem takeFault_jres (e : FaultCode) : (s.takeFault e).jres = s.jres := rfl
@[simp] theorem takeFault_cur (e : FaultCode) : (s.takeFault e).cur = s.cur := rfl
@[simp] theorem takeFault_agenda (e : FaultCode) : (s.takeFault e).agenda = s.agenda := rfl
@[simp] theorem takeFault_source (e : FaultCode) : (s.takeFault e).source = s.source := rfl
@[simp] theorem takeFault_replies (e : FaultCode) : (s.takeFault e).replies = s.replies := rfl
@[simp] theorem takeFault_reg (e : FaultCode) (k : Reg) : (s.takeFault e).reg k = s.reg k := rfl

/-! `clearErrIf` -/

@[simp] theorem clearErrIf_regs (b : Bool) : (s.clearErrIf b).regs = s.regs := rfl
@[simp] theorem clearErrIf_ieDone (b : Bool) : (s.clearErrIf b).ieDone = s.ieDone := rfl
@[simp] theorem clearErrIf_ieErr (b : Bool) : (s.clearErrIf b).ieErr = s.ieErr := rfl
@[simp] theorem clearErrIf_busy (b : Bool) : (s.clearErrIf b).busy = s.busy := rfl
@[simp] theorem clearErrIf_done (b : Bool) : (s.clearErrIf b).done = s.done := rfl
@[simp] theorem clearErrIf_haz (b : Bool) : (s.clearErrIf b).haz = s.haz := rfl
@[simp] theorem clearErrIf_err (b : Bool) : (s.clearErrIf b).err = if b then 0 else s.err := rfl
@[simp] theorem clearErrIf_z (b : Bool) : (s.clearErrIf b).z = s.z := rfl
@[simp] theorem clearErrIf_one (b : Bool) : (s.clearErrIf b).one = s.one := rfl
@[simp] theorem clearErrIf_prime (b : Bool) : (s.clearErrIf b).prime = s.prime := rfl
@[simp] theorem clearErrIf_jres (b : Bool) : (s.clearErrIf b).jres = s.jres := rfl
@[simp] theorem clearErrIf_cur (b : Bool) : (s.clearErrIf b).cur = s.cur := rfl
@[simp] theorem clearErrIf_agenda (b : Bool) : (s.clearErrIf b).agenda = s.agenda := rfl
@[simp] theorem clearErrIf_source (b : Bool) : (s.clearErrIf b).source = s.source := rfl
@[simp] theorem clearErrIf_replies (b : Bool) : (s.clearErrIf b).replies = s.replies := rfl
@[simp] theorem clearErrIf_reg (b : Bool) (k : Reg) : (s.clearErrIf b).reg k = s.reg k := rfl

/-! `clearDoneIf` -/

@[simp] theorem clearDoneIf_regs (b : Bool) : (s.clearDoneIf b).regs = s.regs := rfl
@[simp] theorem clearDoneIf_ieDone (b : Bool) : (s.clearDoneIf b).ieDone = s.ieDone := rfl
@[simp] theorem clearDoneIf_ieErr (b : Bool) : (s.clearDoneIf b).ieErr = s.ieErr := rfl
@[simp] theorem clearDoneIf_busy (b : Bool) : (s.clearDoneIf b).busy = s.busy := rfl
@[simp] theorem clearDoneIf_done (b : Bool) : (s.clearDoneIf b).done = (s.done && !b) := rfl
@[simp] theorem clearDoneIf_haz (b : Bool) : (s.clearDoneIf b).haz = s.haz := rfl
@[simp] theorem clearDoneIf_err (b : Bool) : (s.clearDoneIf b).err = s.err := rfl
@[simp] theorem clearDoneIf_z (b : Bool) : (s.clearDoneIf b).z = s.z := rfl
@[simp] theorem clearDoneIf_one (b : Bool) : (s.clearDoneIf b).one = s.one := rfl
@[simp] theorem clearDoneIf_prime (b : Bool) : (s.clearDoneIf b).prime = s.prime := rfl
@[simp] theorem clearDoneIf_jres (b : Bool) : (s.clearDoneIf b).jres = s.jres := rfl
@[simp] theorem clearDoneIf_cur (b : Bool) : (s.clearDoneIf b).cur = s.cur := rfl
@[simp] theorem clearDoneIf_agenda (b : Bool) : (s.clearDoneIf b).agenda = s.agenda := rfl
@[simp] theorem clearDoneIf_source (b : Bool) : (s.clearDoneIf b).source = s.source := rfl
@[simp] theorem clearDoneIf_replies (b : Bool) : (s.clearDoneIf b).replies = s.replies := rfl
@[simp] theorem clearDoneIf_reg (b : Bool) (k : Reg) : (s.clearDoneIf b).reg k = s.reg k := rfl

/-! `clearHazIf` -/

@[simp] theorem clearHazIf_regs (b : Bool) : (s.clearHazIf b).regs = s.regs := rfl
@[simp] theorem clearHazIf_ieDone (b : Bool) : (s.clearHazIf b).ieDone = s.ieDone := rfl
@[simp] theorem clearHazIf_ieErr (b : Bool) : (s.clearHazIf b).ieErr = s.ieErr := rfl
@[simp] theorem clearHazIf_busy (b : Bool) : (s.clearHazIf b).busy = s.busy := rfl
@[simp] theorem clearHazIf_done (b : Bool) : (s.clearHazIf b).done = s.done := rfl
@[simp] theorem clearHazIf_haz (b : Bool) : (s.clearHazIf b).haz = (s.haz && !b) := rfl
@[simp] theorem clearHazIf_err (b : Bool) : (s.clearHazIf b).err = s.err := rfl
@[simp] theorem clearHazIf_z (b : Bool) : (s.clearHazIf b).z = s.z := rfl
@[simp] theorem clearHazIf_one (b : Bool) : (s.clearHazIf b).one = s.one := rfl
@[simp] theorem clearHazIf_prime (b : Bool) : (s.clearHazIf b).prime = s.prime := rfl
@[simp] theorem clearHazIf_jres (b : Bool) : (s.clearHazIf b).jres = s.jres := rfl
@[simp] theorem clearHazIf_cur (b : Bool) : (s.clearHazIf b).cur = s.cur := rfl
@[simp] theorem clearHazIf_agenda (b : Bool) : (s.clearHazIf b).agenda = s.agenda := rfl
@[simp] theorem clearHazIf_source (b : Bool) : (s.clearHazIf b).source = s.source := rfl
@[simp] theorem clearHazIf_replies (b : Bool) : (s.clearHazIf b).replies = s.replies := rfl
@[simp] theorem clearHazIf_reg (b : Bool) (k : Reg) : (s.clearHazIf b).reg k = s.reg k := rfl

/-! `writeCtrl` -/

@[simp] theorem writeCtrl_regs (v : Word) : (s.writeCtrl v).regs = s.regs := rfl
@[simp] theorem writeCtrl_ieDone (v : Word) : (s.writeCtrl v).ieDone = v.getLsbD 0 := rfl
@[simp] theorem writeCtrl_ieErr (v : Word) : (s.writeCtrl v).ieErr = v.getLsbD 1 := rfl
@[simp] theorem writeCtrl_busy (v : Word) : (s.writeCtrl v).busy = s.busy := rfl
@[simp] theorem writeCtrl_done (v : Word) : (s.writeCtrl v).done = s.done := rfl
@[simp] theorem writeCtrl_haz (v : Word) : (s.writeCtrl v).haz = s.haz := rfl
@[simp] theorem writeCtrl_err (v : Word) : (s.writeCtrl v).err = s.err := rfl
@[simp] theorem writeCtrl_z (v : Word) : (s.writeCtrl v).z = s.z := rfl
@[simp] theorem writeCtrl_one (v : Word) : (s.writeCtrl v).one = s.one := rfl
@[simp] theorem writeCtrl_prime (v : Word) : (s.writeCtrl v).prime = s.prime := rfl
@[simp] theorem writeCtrl_jres (v : Word) : (s.writeCtrl v).jres = s.jres := rfl
@[simp] theorem writeCtrl_cur (v : Word) : (s.writeCtrl v).cur = s.cur := rfl
@[simp] theorem writeCtrl_agenda (v : Word) : (s.writeCtrl v).agenda = s.agenda := rfl
@[simp] theorem writeCtrl_source (v : Word) : (s.writeCtrl v).source = s.source := rfl
@[simp] theorem writeCtrl_replies (v : Word) : (s.writeCtrl v).replies = s.replies := rfl
@[simp] theorem writeCtrl_reg (v : Word) (k : Reg) : (s.writeCtrl v).reg k = s.reg k := rfl

/-! `markHaz` -/

@[simp] theorem markHaz_regs : s.markHaz.regs = s.regs := rfl
@[simp] theorem markHaz_ieDone : s.markHaz.ieDone = s.ieDone := rfl
@[simp] theorem markHaz_ieErr : s.markHaz.ieErr = s.ieErr := rfl
@[simp] theorem markHaz_busy : s.markHaz.busy = s.busy := rfl
@[simp] theorem markHaz_done : s.markHaz.done = s.done := rfl
@[simp] theorem markHaz_haz : s.markHaz.haz = true := rfl
@[simp] theorem markHaz_err : s.markHaz.err = s.err := rfl
@[simp] theorem markHaz_z : s.markHaz.z = s.z := rfl
@[simp] theorem markHaz_one : s.markHaz.one = s.one := rfl
@[simp] theorem markHaz_prime : s.markHaz.prime = s.prime := rfl
@[simp] theorem markHaz_jres : s.markHaz.jres = s.jres := rfl
@[simp] theorem markHaz_cur : s.markHaz.cur = s.cur := rfl
@[simp] theorem markHaz_agenda : s.markHaz.agenda = s.agenda := rfl
@[simp] theorem markHaz_source : s.markHaz.source = s.source := rfl
@[simp] theorem markHaz_replies : s.markHaz.replies = s.replies := rfl
@[simp] theorem markHaz_reg (k : Reg) : s.markHaz.reg k = s.reg k := rfl

/-! `accept` -/

@[simp] theorem accept_regs (w : Word) : (s.accept w).regs = s.regs := rfl
@[simp] theorem accept_ieDone (w : Word) : (s.accept w).ieDone = s.ieDone := rfl
@[simp] theorem accept_ieErr (w : Word) : (s.accept w).ieErr = s.ieErr := rfl
@[simp] theorem accept_busy (w : Word) : (s.accept w).busy = true := rfl
@[simp] theorem accept_done (w : Word) : (s.accept w).done = false := rfl
@[simp] theorem accept_haz (w : Word) : (s.accept w).haz = s.haz := rfl
@[simp] theorem accept_err (w : Word) : (s.accept w).err = s.err := rfl
@[simp] theorem accept_z (w : Word) : (s.accept w).z = s.z := rfl
@[simp] theorem accept_one (w : Word) : (s.accept w).one = s.one := rfl
@[simp] theorem accept_prime (w : Word) : (s.accept w).prime = s.prime := rfl
@[simp] theorem accept_jres (w : Word) : (s.accept w).jres = s.jres := rfl
@[simp] theorem accept_cur (w : Word) : (s.accept w).cur = w := rfl
@[simp] theorem accept_agenda (w : Word) : (s.accept w).agenda = s.agenda := rfl
@[simp] theorem accept_source (w : Word) : (s.accept w).source = s.source := rfl
@[simp] theorem accept_replies (w : Word) : (s.accept w).replies = s.replies := rfl
@[simp] theorem accept_reg (w : Word) (k : Reg) : (s.accept w).reg k = s.reg k := rfl

/-! `setSource` -/

@[simp] theorem setSource_regs (r : RandomSource) : (s.setSource r).regs = s.regs := rfl
@[simp] theorem setSource_ieDone (r : RandomSource) : (s.setSource r).ieDone = s.ieDone := rfl
@[simp] theorem setSource_ieErr (r : RandomSource) : (s.setSource r).ieErr = s.ieErr := rfl
@[simp] theorem setSource_busy (r : RandomSource) : (s.setSource r).busy = s.busy := rfl
@[simp] theorem setSource_done (r : RandomSource) : (s.setSource r).done = s.done := rfl
@[simp] theorem setSource_haz (r : RandomSource) : (s.setSource r).haz = s.haz := rfl
@[simp] theorem setSource_err (r : RandomSource) : (s.setSource r).err = s.err := rfl
@[simp] theorem setSource_z (r : RandomSource) : (s.setSource r).z = s.z := rfl
@[simp] theorem setSource_one (r : RandomSource) : (s.setSource r).one = s.one := rfl
@[simp] theorem setSource_prime (r : RandomSource) : (s.setSource r).prime = s.prime := rfl
@[simp] theorem setSource_jres (r : RandomSource) : (s.setSource r).jres = s.jres := rfl
@[simp] theorem setSource_cur (r : RandomSource) : (s.setSource r).cur = s.cur := rfl
@[simp] theorem setSource_agenda (r : RandomSource) : (s.setSource r).agenda = s.agenda := rfl
@[simp] theorem setSource_source (r : RandomSource) : (s.setSource r).source = r := rfl
@[simp] theorem setSource_replies (r : RandomSource) : (s.setSource r).replies = s.replies := rfl
@[simp] theorem setSource_reg (r : RandomSource) (k : Reg) : (s.setSource r).reg k = s.reg k := rfl

/-! `reply` -/

@[simp] theorem reply_regs (w : Word) : (s.reply w).regs = s.regs := rfl
@[simp] theorem reply_ieDone (w : Word) : (s.reply w).ieDone = s.ieDone := rfl
@[simp] theorem reply_ieErr (w : Word) : (s.reply w).ieErr = s.ieErr := rfl
@[simp] theorem reply_busy (w : Word) : (s.reply w).busy = s.busy := rfl
@[simp] theorem reply_done (w : Word) : (s.reply w).done = s.done := rfl
@[simp] theorem reply_haz (w : Word) : (s.reply w).haz = s.haz := rfl
@[simp] theorem reply_err (w : Word) : (s.reply w).err = s.err := rfl
@[simp] theorem reply_z (w : Word) : (s.reply w).z = s.z := rfl
@[simp] theorem reply_one (w : Word) : (s.reply w).one = s.one := rfl
@[simp] theorem reply_prime (w : Word) : (s.reply w).prime = s.prime := rfl
@[simp] theorem reply_jres (w : Word) : (s.reply w).jres = s.jres := rfl
@[simp] theorem reply_cur (w : Word) : (s.reply w).cur = s.cur := rfl
@[simp] theorem reply_agenda (w : Word) : (s.reply w).agenda = s.agenda := rfl
@[simp] theorem reply_source (w : Word) : (s.reply w).source = s.source := rfl
@[simp] theorem reply_replies (w : Word) : (s.reply w).replies = w :: s.replies := rfl
@[simp] theorem reply_reg (w : Word) (k : Reg) : (s.reply w).reg k = s.reg k := rfl

/-! `setAgenda` -/

@[simp] theorem setAgenda_regs (l : List Event) : (s.setAgenda l).regs = s.regs := rfl
@[simp] theorem setAgenda_ieDone (l : List Event) : (s.setAgenda l).ieDone = s.ieDone := rfl
@[simp] theorem setAgenda_ieErr (l : List Event) : (s.setAgenda l).ieErr = s.ieErr := rfl
@[simp] theorem setAgenda_busy (l : List Event) : (s.setAgenda l).busy = s.busy := rfl
@[simp] theorem setAgenda_done (l : List Event) : (s.setAgenda l).done = s.done := rfl
@[simp] theorem setAgenda_haz (l : List Event) : (s.setAgenda l).haz = s.haz := rfl
@[simp] theorem setAgenda_err (l : List Event) : (s.setAgenda l).err = s.err := rfl
@[simp] theorem setAgenda_z (l : List Event) : (s.setAgenda l).z = s.z := rfl
@[simp] theorem setAgenda_one (l : List Event) : (s.setAgenda l).one = s.one := rfl
@[simp] theorem setAgenda_prime (l : List Event) : (s.setAgenda l).prime = s.prime := rfl
@[simp] theorem setAgenda_jres (l : List Event) : (s.setAgenda l).jres = s.jres := rfl
@[simp] theorem setAgenda_cur (l : List Event) : (s.setAgenda l).cur = s.cur := rfl
@[simp] theorem setAgenda_agenda (l : List Event) : (s.setAgenda l).agenda = l := rfl
@[simp] theorem setAgenda_source (l : List Event) : (s.setAgenda l).source = s.source := rfl
@[simp] theorem setAgenda_replies (l : List Event) : (s.setAgenda l).replies = s.replies := rfl
@[simp] theorem setAgenda_reg (l : List Event) (k : Reg) : (s.setAgenda l).reg k = s.reg k := rfl

/-! `rest` -/

@[simp] theorem rest_regs : s.rest.regs = s.regs := rfl
@[simp] theorem rest_ieDone : s.rest.ieDone = s.ieDone := rfl
@[simp] theorem rest_ieErr : s.rest.ieErr = s.ieErr := rfl
@[simp] theorem rest_busy : s.rest.busy = s.busy := rfl
@[simp] theorem rest_done : s.rest.done = s.done := rfl
@[simp] theorem rest_haz : s.rest.haz = s.haz := rfl
@[simp] theorem rest_err : s.rest.err = s.err := rfl
@[simp] theorem rest_z : s.rest.z = s.z := rfl
@[simp] theorem rest_one : s.rest.one = s.one := rfl
@[simp] theorem rest_prime : s.rest.prime = s.prime := rfl
@[simp] theorem rest_jres : s.rest.jres = s.jres := rfl
@[simp] theorem rest_cur : s.rest.cur = s.cur := rfl
@[simp] theorem rest_agenda : s.rest.agenda = s.agenda.tail := rfl
@[simp] theorem rest_source : s.rest.source = s.source := rfl
@[simp] theorem rest_replies : s.rest.replies = s.replies := rfl
@[simp] theorem rest_reg (k : Reg) : s.rest.reg k = s.reg k := rfl

/-! `resetEngine` -/

@[simp] theorem resetEngine_regs : s.resetEngine.regs = Vector.replicate 8 0 := rfl
@[simp] theorem resetEngine_ieDone : s.resetEngine.ieDone = false := rfl
@[simp] theorem resetEngine_ieErr : s.resetEngine.ieErr = false := rfl
@[simp] theorem resetEngine_busy : s.resetEngine.busy = false := rfl
@[simp] theorem resetEngine_done : s.resetEngine.done = false := rfl
@[simp] theorem resetEngine_haz : s.resetEngine.haz = false := rfl
@[simp] theorem resetEngine_err : s.resetEngine.err = 0 := rfl
@[simp] theorem resetEngine_z : s.resetEngine.z = false := rfl
@[simp] theorem resetEngine_one : s.resetEngine.one = false := rfl
@[simp] theorem resetEngine_prime : s.resetEngine.prime = false := rfl
@[simp] theorem resetEngine_jres : s.resetEngine.jres = 0 := rfl
@[simp] theorem resetEngine_cur : s.resetEngine.cur = 0 := rfl
@[simp] theorem resetEngine_agenda : s.resetEngine.agenda = s.agenda := rfl
@[simp] theorem resetEngine_source : s.resetEngine.source = s.source := rfl
@[simp] theorem resetEngine_replies : s.resetEngine.replies = s.replies := rfl

/-! The register file, read through `reg`. -/

@[simp] theorem setReg_reg (i : Reg) (v : Nat) (k : Reg) :
    (s.setReg i v).reg k = if k = i then v else s.reg k := by
  simp only [reg, setReg, Vector.get_eq_getElem, Vector.getElem_set, Fin.ext_iff, eq_comm]

theorem setReg_reg_self (i : Reg) (v : Nat) : (s.setReg i v).reg i = v := by simp

theorem setReg_reg_of_ne {i k : Reg} (v : Nat) (h : k ≠ i) : (s.setReg i v).reg k = s.reg k := by
  simp [h]

@[simp] theorem resetEngine_reg (k : Reg) : s.resetEngine.reg k = 0 := by
  simp [reg, Vector.get_eq_getElem]

@[simp] theorem reset_reg (k : Reg) : State.reset.reg k = 0 := by
  simp [reg, State.reset, Vector.get_eq_getElem]

/-- A register file is determined by what its eight registers read as. -/
theorem regs_ext {s t : State} (h : ∀ k : Reg, s.reg k = t.reg k) : s.regs = t.regs := by
  apply Vector.ext
  intro i hi
  simpa [reg, Vector.get_eq_getElem] using h ⟨i, hi⟩

/-! The composed updates. -/

/-- A host write to `STATUS` is its three clears on one record (10_state.md R33). -/
theorem writeStatus_eq (v : Word) :
    s.writeStatus v =
      { s with
        done := s.done && !v.getLsbD 1
        haz := s.haz && !v.getLsbD 2
        err := if v.getLsbD 3 then 0 else s.err } := rfl

/-- A value command's completion on one record (20_memory.md R68, 10_state.md R39). -/
theorem completeValue_eq (rd : Reg) (v : Nat) :
    s.completeValue rd v =
      { s with
        regs := s.regs.set rd.val v rd.isLt
        z := decide (v = 0)
        one := decide (v = 1)
        busy := false
        done := true } := rfl

@[simp] theorem completeValue_regs (rd : Reg) (v : Nat) :
    (s.completeValue rd v).regs = s.regs.set rd.val v rd.isLt := rfl
@[simp] theorem completeValue_ieDone (rd : Reg) (v : Nat) :
    (s.completeValue rd v).ieDone = s.ieDone := rfl
@[simp] theorem completeValue_ieErr (rd : Reg) (v : Nat) :
    (s.completeValue rd v).ieErr = s.ieErr := rfl
@[simp] theorem completeValue_busy (rd : Reg) (v : Nat) :
    (s.completeValue rd v).busy = false := rfl
@[simp] theorem completeValue_done (rd : Reg) (v : Nat) :
    (s.completeValue rd v).done = true := rfl
@[simp] theorem completeValue_haz (rd : Reg) (v : Nat) :
    (s.completeValue rd v).haz = s.haz := rfl
@[simp] theorem completeValue_err (rd : Reg) (v : Nat) :
    (s.completeValue rd v).err = s.err := rfl
@[simp] theorem completeValue_z (rd : Reg) (v : Nat) :
    (s.completeValue rd v).z = decide (v = 0) := rfl
@[simp] theorem completeValue_one (rd : Reg) (v : Nat) :
    (s.completeValue rd v).one = decide (v = 1) := rfl
@[simp] theorem completeValue_prime (rd : Reg) (v : Nat) :
    (s.completeValue rd v).prime = s.prime := rfl
@[simp] theorem completeValue_jres (rd : Reg) (v : Nat) :
    (s.completeValue rd v).jres = s.jres := rfl
@[simp] theorem completeValue_cur (rd : Reg) (v : Nat) :
    (s.completeValue rd v).cur = s.cur := rfl
@[simp] theorem completeValue_agenda (rd : Reg) (v : Nat) :
    (s.completeValue rd v).agenda = s.agenda := rfl
@[simp] theorem completeValue_source (rd : Reg) (v : Nat) :
    (s.completeValue rd v).source = s.source := rfl
@[simp] theorem completeValue_replies (rd : Reg) (v : Nat) :
    (s.completeValue rd v).replies = s.replies := rfl

@[simp] theorem completeValue_reg (rd : Reg) (v : Nat) (k : Reg) :
    (s.completeValue rd v).reg k = if k = rd then v else s.reg k := by
  simp [completeValue]

end Sys2Proof.Machine.State
end

