-- ==== Sys2Proof/Laws/Bus.lean ====
section
/-! SUPPORT. The address map both ways, and what a host access can do. -/

namespace Sys2Proof.Machine

theorem accessFault_none_iff (size : AccessSize) (off : Nat) :
    accessFault size off = none ↔ size = .word ∧ off ≤ 0x1FFF ∧ off % 4 = 0 := by
  unfold accessFault
  split
  · simp_all
  · split
    · simp; omega
    · split <;> simp_all

/-- A limb offset is the offset of that limb (20_memory.md R51). -/
theorem busTarget_limbOffset (c : Config.Params) (hc : c.Valid) (i : Reg) {j : Nat}
    (hj : j < c.limbs) : busTarget c (limbOffset i j) = .limb i j := by
  have hi := i.isLt
  obtain ⟨h1, h2⟩ := hc
  have hq : (limbOffset i j - 0x1000) / 0x200 = i.val := by unfold limbOffset; omega
  have hr : (limbOffset i j - 0x1000) % 0x200 / 4 = j := by unfold limbOffset; omega
  have hlo : 0x1000 ≤ limbOffset i j := by unfold limbOffset; omega
  have hfin : Fin.ofNat 8 i.val = i := by ext; simp
  unfold busTarget
  rw [hq, hr, hfin]
  simp only [hj, if_true]
  repeat' rw [if_neg (by omega)]

/-- Only a limb's own offset is mapped to it. -/
theorem busTarget_eq_limb {c : Config.Params} {off : Nat} {i : Reg} {j : Nat}
    (h : busTarget c off = .limb i j) (hoff : off ≤ 0x1FFF) (hal : off % 4 = 0) :
    off = limbOffset i j ∧ j < c.limbs := by
  unfold busTarget at h
  iterate 6 (split at h; · cases h)
  split at h
  · next hlt =>
    obtain ⟨rfl, rfl⟩ : Fin.ofNat 8 ((off - 0x1000) / 0x200) = i ∧
        (off - 0x1000) % 0x200 / 4 = j := by simpa using h
    refine ⟨?_, hlt⟩
    simp only [limbOffset, Fin.val_ofNat]
    omega
  · cases h

/-- The named registers have one offset each (20_memory.md R51). -/
theorem busTarget_eq_register {c : Config.Params} {off : Nat} :
    (busTarget c off = .id ↔ off = 0x0000) ∧ (busTarget c off = .cfg ↔ off = 0x0004) ∧
      (busTarget c off = .ctrl ↔ off = 0x0008) ∧ (busTarget c off = .status ↔ off = 0x000C) ∧
      (busTarget c off = .cmd ↔ off = 0x0010) := by
  unfold busTarget
  refine ⟨?_, ?_, ?_, ?_, ?_⟩ <;> constructor
  all_goals first
    | (rintro rfl; rfl)
    | (intro h; repeat' (first | assumption | cases h | split at h))

/-- What an offer to `CMD` can do (20_memory.md R64, R65). -/
theorem offer_cases (w : Word) (s : State) :
    (s.busy = false ∧ s.err = 0#4 ∧ s.offer w = s.accept w) ∨
      ((s.busy = true ∨ s.err ≠ 0#4) ∧ s.offer w = s.markHaz) := by
  unfold State.offer
  rcases Bool.eq_false_or_eq_true s.busy with hb | hb <;> by_cases he : s.err = 0#4 <;> simp [hb, he]

/-- The state after a host read: unchanged, or marked by a read of an operand limb while busy
(20_memory.md R66). -/
theorem hostRead_state_cases (c : Config.Params) (off : Nat) (s : State) :
    (hostRead c off s).2 = s ∨
      (s.busy = true ∧ (∃ i j, busTarget c off = .limb i j) ∧ (hostRead c off s).2 = s.markHaz) := by
  unfold hostRead
  split <;> try exact .inl rfl
  next i j h =>
  split
  · exact .inr ⟨by assumption, ⟨i, j, h⟩, rfl⟩
  · exact .inl rfl

/-- What a host write can do (20_memory.md R53). -/
theorem hostWrite_cases (c : Config.Params) (off : Nat) (v : Word) (s : State) :
    hostWrite c off v s = s ∨
      (busTarget c off = .ctrl ∧ hostWrite c off v s = s.writeCtrl v) ∨
      (busTarget c off = .status ∧ hostWrite c off v s = s.writeStatus v) ∨
      (busTarget c off = .cmd ∧ hostWrite c off v s = s.offer v) ∨
      (∃ i j, busTarget c off = .limb i j ∧ s.busy = true ∧ hostWrite c off v s = s.markHaz) ∨
      (∃ i j, busTarget c off = .limb i j ∧ s.busy = false ∧
        hostWrite c off v s = s.setReg i (Arith.setLimb (s.reg i) j v)) := by
  unfold hostWrite
  split <;> simp_all
  next i j h => cases hb : s.busy <;> simp

end Sys2Proof.Machine
end

