-- ==== Sys2Proof/Laws/Decode.lean ====
section
/-! SUPPORT. The mask and match tests of 30_encoding.md R84 as statements about the fields of R81, and
the fields as arithmetic on the word. -/

namespace Sys2Proof

theorem fieldOP_toNat (w : Word) : (fieldOP w).toNat = w.toNat / 2 ^ 24 := by
  simp only [fieldOP, BitVec.extractLsb'_toNat, Nat.shiftRight_eq_div_pow]
  omega
theorem fieldRD_val (w : Word) : (fieldRD w).val = w.toNat / 2 ^ 21 % 8 := by
  simp [fieldRD, BitVec.extractLsb'_toNat, Nat.shiftRight_eq_div_pow]
theorem fieldRA_val (w : Word) : (fieldRA w).val = w.toNat / 2 ^ 18 % 8 := by
  simp [fieldRA, BitVec.extractLsb'_toNat, Nat.shiftRight_eq_div_pow]
theorem fieldRB_val (w : Word) : (fieldRB w).val = w.toNat / 2 ^ 15 % 8 := by
  simp [fieldRB, BitVec.extractLsb'_toNat, Nat.shiftRight_eq_div_pow]
theorem fieldRN_val (w : Word) : (fieldRN w).val = w.toNat / 2 ^ 12 % 8 := by
  simp [fieldRN, BitVec.extractLsb'_toNat, Nat.shiftRight_eq_div_pow]
theorem fieldIMM_eq (w : Word) : fieldIMM w = w.toNat % 2 ^ 12 := by
  simp [fieldIMM, BitVec.extractLsb'_toNat]

/-- The fields tile the word with no gap (30_encoding.md R81). -/
theorem toNat_fields (w : Word) :
    w.toNat = encodeFields (fieldOP w).toNat (fieldRD w) (fieldRA w) (fieldRB w) (fieldRN w)
      (fieldIMM w) := by
  have := w.isLt
  simp only [encodeFields, fieldOP_toNat, fieldRD_val, fieldRA_val, fieldRB_val, fieldRN_val,
    fieldIMM_eq]
  omega

/-- A mask test on a 32-bit word, bit by bit. -/
theorem and_eq_iff_bits (w m c : Word) :
    w &&& m = c ↔ ∀ i : Fin 32, (w.getLsbD i && m.getLsbD i) = c.getLsbD i := by
  constructor
  · rintro rfl i
    simp
  · intro h
    apply BitVec.eq_of_getLsbD_eq
    intro i hi
    simpa using h ⟨i, hi⟩

/-- An extracted field of a word equals `v`, bit by bit. -/
theorem extract_eq_iff_bits (w : Word) (lo len : Nat) (v : BitVec len) :
    w.extractLsb' lo len = v ↔ ∀ i : Fin len, w.getLsbD (lo + i) = v.getLsbD i := by
  constructor
  · rintro rfl i
    simp
  · intro h
    apply BitVec.eq_of_getLsbD_eq
    intro i hi
    have := h ⟨i, hi⟩
    simp_all

/-- An extracted field equals `v`, as arithmetic on the word. -/
theorem extract_eq_iff_nat (w : Word) (lo len : Nat) (v : BitVec len) :
    w.extractLsb' lo len = v ↔ w.toNat / 2 ^ lo % 2 ^ len = v.toNat := by
  rw [← BitVec.toNat_inj, BitVec.extractLsb'_toNat, Nat.shiftRight_eq_div_pow]

/-! The eight rows of 30_encoding.md R84: a word passes a row's test exactly when its `OP` is the row's
and every field R82 marks "must be 0" is 0. -/

theorem mask_nop_iff (w : Word) :
    w &&& 0xFFFFFFFF#32 = 0x00000000#32 ↔
      w.toNat / 2 ^ 24 = 0 ∧ w.toNat / 2 ^ 0 % 2 ^ 24 = 0 := by
  have bits : w &&& 0xFFFFFFFF#32 = 0x00000000#32 ↔
      w.extractLsb' 24 8 = 0#8 ∧ w.extractLsb' 0 24 = 0#24 := by
    simp only [and_eq_iff_bits, extract_eq_iff_bits]
    simp [Fin.forall_fin_succ]
    tauto
  have := w.isLt
  rw [bits]
  simp only [extract_eq_iff_nat, BitVec.toNat_ofNat]
  omega

theorem mask_sample_iff (w : Word) :
    w &&& 0xFF007FFF#32 = 0x01000000#32 ↔
      w.toNat / 2 ^ 24 = 1 ∧ w.toNat / 2 ^ 0 % 2 ^ 15 = 0 := by
  have bits : w &&& 0xFF007FFF#32 = 0x01000000#32 ↔
      w.extractLsb' 24 8 = 1#8 ∧ w.extractLsb' 0 15 = 0#15 := by
    simp only [and_eq_iff_bits, extract_eq_iff_bits]
    simp [Fin.forall_fin_succ]
    tauto
  have := w.isLt
  rw [bits]
  simp only [extract_eq_iff_nat, BitVec.toNat_ofNat]
  omega

theorem mask_jacobi_iff (w : Word) :
    w &&& 0xFF038FFF#32 = 0x02000000#32 ↔
      w.toNat / 2 ^ 24 = 2 ∧ w.toNat / 2 ^ 15 % 2 ^ 3 = 0 ∧ w.toNat / 2 ^ 0 % 2 ^ 12 = 0 := by
  have bits : w &&& 0xFF038FFF#32 = 0x02000000#32 ↔
      w.extractLsb' 24 8 = 2#8 ∧ w.extractLsb' 15 3 = 0#3 ∧ w.extractLsb' 0 12 = 0#12 := by
    simp only [and_eq_iff_bits, extract_eq_iff_bits]
    simp [Fin.forall_fin_succ]
    tauto
  have := w.isLt
  rw [bits]
  simp only [extract_eq_iff_nat, BitVec.toNat_ofNat]
  omega

theorem mask_gcd_iff (w : Word) :
    w &&& 0xFF007FFF#32 = 0x03000000#32 ↔
      w.toNat / 2 ^ 24 = 3 ∧ w.toNat / 2 ^ 0 % 2 ^ 15 = 0 := by
  have bits : w &&& 0xFF007FFF#32 = 0x03000000#32 ↔
      w.extractLsb' 24 8 = 3#8 ∧ w.extractLsb' 0 15 = 0#15 := by
    simp only [and_eq_iff_bits, extract_eq_iff_bits]
    simp [Fin.forall_fin_succ]
    tauto
  have := w.isLt
  rw [bits]
  simp only [extract_eq_iff_nat, BitVec.toNat_ofNat]
  omega

theorem mask_modexp_iff (w : Word) :
    w &&& 0xFF000FFF#32 = 0x04000000#32 ↔
      w.toNat / 2 ^ 24 = 4 ∧ w.toNat / 2 ^ 0 % 2 ^ 12 = 0 := by
  have bits : w &&& 0xFF000FFF#32 = 0x04000000#32 ↔
      w.extractLsb' 24 8 = 4#8 ∧ w.extractLsb' 0 12 = 0#12 := by
    simp only [and_eq_iff_bits, extract_eq_iff_bits]
    simp [Fin.forall_fin_succ]
    tauto
  have := w.isLt
  rw [bits]
  simp only [extract_eq_iff_nat, BitVec.toNat_ofNat]
  omega

theorem mask_modmul_iff (w : Word) :
    w &&& 0xFF000FFF#32 = 0x05000000#32 ↔
      w.toNat / 2 ^ 24 = 5 ∧ w.toNat / 2 ^ 0 % 2 ^ 12 = 0 := by
  have bits : w &&& 0xFF000FFF#32 = 0x05000000#32 ↔
      w.extractLsb' 24 8 = 5#8 ∧ w.extractLsb' 0 12 = 0#12 := by
    simp only [and_eq_iff_bits, extract_eq_iff_bits]
    simp [Fin.forall_fin_succ]
    tauto
  have := w.isLt
  rw [bits]
  simp only [extract_eq_iff_nat, BitVec.toNat_ofNat]
  omega

theorem mask_modinv_iff (w : Word) :
    w &&& 0xFF038FFF#32 = 0x06000000#32 ↔
      w.toNat / 2 ^ 24 = 6 ∧ w.toNat / 2 ^ 15 % 2 ^ 3 = 0 ∧ w.toNat / 2 ^ 0 % 2 ^ 12 = 0 := by
  have bits : w &&& 0xFF038FFF#32 = 0x06000000#32 ↔
      w.extractLsb' 24 8 = 6#8 ∧ w.extractLsb' 15 3 = 0#3 ∧ w.extractLsb' 0 12 = 0#12 := by
    simp only [and_eq_iff_bits, extract_eq_iff_bits]
    simp [Fin.forall_fin_succ]
    tauto
  have := w.isLt
  rw [bits]
  simp only [extract_eq_iff_nat, BitVec.toNat_ofNat]
  omega

theorem mask_ptest_iff (w : Word) :
    w &&& 0xFFFF8000#32 = 0x07000000#32 ↔
      w.toNat / 2 ^ 24 = 7 ∧ w.toNat / 2 ^ 15 % 2 ^ 9 = 0 := by
  have bits : w &&& 0xFFFF8000#32 = 0x07000000#32 ↔
      w.extractLsb' 24 8 = 7#8 ∧ w.extractLsb' 15 9 = 0#9 := by
    simp only [and_eq_iff_bits, extract_eq_iff_bits]
    simp [Fin.forall_fin_succ]
    tauto
  have := w.isLt
  rw [bits]
  simp only [extract_eq_iff_nat, BitVec.toNat_ofNat]
  omega

/-- The word passes the row's mask test and its fields are the command's operands (30_encoding.md R84,
R86). -/
def Instr.isRow (w : Word) : Instr → Prop
  | .nop => w &&& 0xFFFFFFFF#32 = 0x00000000#32
  | .sample rd rmin rmax =>
    w &&& 0xFF007FFF#32 = 0x01000000#32 ∧ fieldRD w = rd ∧ fieldRA w = rmin ∧ fieldRB w = rmax
  | .jacobi rd ra rn =>
    w &&& 0xFF038FFF#32 = 0x02000000#32 ∧ fieldRD w = rd ∧ fieldRA w = ra ∧ fieldRN w = rn
  | .gcd rd ra rb =>
    w &&& 0xFF007FFF#32 = 0x03000000#32 ∧ fieldRD w = rd ∧ fieldRA w = ra ∧ fieldRB w = rb
  | .modexp rd ra re rn =>
    w &&& 0xFF000FFF#32 = 0x04000000#32 ∧ fieldRD w = rd ∧ fieldRA w = ra ∧ fieldRB w = re ∧
      fieldRN w = rn
  | .modmul rd ra rb rn =>
    w &&& 0xFF000FFF#32 = 0x05000000#32 ∧ fieldRD w = rd ∧ fieldRA w = ra ∧ fieldRB w = rb ∧
      fieldRN w = rn
  | .modinv rd rs rn =>
    w &&& 0xFF038FFF#32 = 0x06000000#32 ∧ fieldRD w = rd ∧ fieldRA w = rs ∧ fieldRN w = rn
  | .ptest rn conf =>
    w &&& 0xFFFF8000#32 = 0x07000000#32 ∧ fieldRN w = rn ∧ fieldIMM w = conf

/-- A word that decodes passes its row's test. -/
theorem isRow_of_decode {w : Word} {i : Instr} (h : decode w = .ok i) : i.isRow w := by
  unfold decode at h
  split_ifs at h with h1 h2 h3 h4 h5 h6 h7 h8 <;> cases h <;>
    first
      | assumption
      | exact ⟨by assumption, rfl, rfl⟩
      | exact ⟨by assumption, rfl, rfl, rfl⟩
      | exact ⟨by assumption, rfl, rfl, rfl, rfl⟩

/-- Only one row's test passes, the `OP` values being different. -/
theorem decode_of_isRow {w : Word} {i : Instr} (h : i.isRow w) : decode w = .ok i := by
  unfold decode
  simp only [mask_nop_iff, mask_sample_iff, mask_jacobi_iff, mask_gcd_iff, mask_modexp_iff,
    mask_modmul_iff, mask_modinv_iff, mask_ptest_iff]
  cases i <;>
    simp only [Instr.isRow, mask_nop_iff, mask_sample_iff, mask_jacobi_iff, mask_gcd_iff,
      mask_modexp_iff, mask_modmul_iff, mask_modinv_iff, mask_ptest_iff] at h <;>
    generalize w.toNat / 2 ^ 24 = op at h ⊢ <;>
    simp only [h, and_true, if_true, if_false, false_and, reduceCtorEq,
      OfNat.ofNat_ne_zero, Nat.reduceEqDiff, one_ne_zero]

/-- The decoder is the opcode table (30_encoding.md R84, R86). -/
theorem decode_eq_ok_iff (w : Word) (i : Instr) : decode w = .ok i ↔ i.isRow w :=
  ⟨isRow_of_decode, decode_of_isRow⟩

end Sys2Proof
end

