-- ==== Sys2Proof/Laws/Jacobi.lean ====
section
/-! SUPPORT. The bound on the calls of `jacobiCalls` is never reached for a modulus `n >= 1`, so that
`jacobi` obeys the six rules of 42_jacobi.md R116 with no bound in sight. -/

namespace Sys2Proof.Machine.Arith

/-- Falls at every call of 42_jacobi.md R116 (R117). -/
def jacobiMeasure (a n : Nat) : Nat := 2 * (a + n) + if a < n then 1 else 0

/-- One unrolling of the six rules. -/
theorem jacobiCalls_succ (f a n : Nat) :
    jacobiCalls (f + 1) a n =
      if a = 0 then (if n = 1 then 1 else 0)
      else if a = 1 then 1
      else if a = 2 then jacobiTwo n
      else if n ≤ a then jacobiCalls f (a % n) n
      else if a % 2 = 0 then jacobiTwo n * jacobiCalls f (a / 2) n
      else if a % 4 = 3 ∧ n % 4 = 3 then -jacobiCalls f n a
      else jacobiCalls f n a := rfl

/-- The reduction of rule 4 lowers the measure. -/
theorem jacobiMeasure_mod_lt {a n : Nat} (hn : 0 < n) (h : n ≤ a) :
    jacobiMeasure (a % n) n < jacobiMeasure a n := by
  have := Nat.mod_lt a hn
  simp only [jacobiMeasure, this, if_true, Nat.not_lt.mpr h, if_false]
  omega

/-- The halving of rule 5 lowers the measure. -/
theorem jacobiMeasure_half_lt {a n : Nat} (ha : 0 < a) (h : a < n) :
    jacobiMeasure (a / 2) n < jacobiMeasure a n := by
  have : a / 2 < n := by omega
  simp only [jacobiMeasure, this, h, if_true]
  omega

/-- The swap of rule 6 lowers the measure. -/
theorem jacobiMeasure_swap_lt {a n : Nat} (h : a < n) : jacobiMeasure n a < jacobiMeasure a n := by
  have : ¬ n < a := by omega
  simp only [jacobiMeasure, h, this, if_true, if_false]
  omega

/-- Two bounds above the measure give one value. -/
theorem jacobiCalls_bound :
    ∀ (f g a n : Nat), 0 < n → jacobiMeasure a n < f → jacobiMeasure a n < g →
      jacobiCalls f a n = jacobiCalls g a n := by
  intro f
  induction f with
  | zero => intro g a n _ h; omega
  | succ f ih =>
    intro g a n hn hf hg
    obtain ⟨g, rfl⟩ : ∃ g', g = g' + 1 := ⟨g - 1, by omega⟩
    have key : ∀ a' n', 0 < n' → jacobiMeasure a' n' < jacobiMeasure a n →
        jacobiCalls f a' n' = jacobiCalls g a' n' :=
      fun a' n' hn' hm => ih g a' n' hn' (by omega) (by omega)
    rw [jacobiCalls_succ, jacobiCalls_succ]
    split
    · rfl
    · split
      · rfl
      · split
        · rfl
        · split
          · next h => exact key _ _ hn (jacobiMeasure_mod_lt hn h)
          · next h =>
            rw [key _ _ hn (jacobiMeasure_half_lt (by omega) (by omega)),
              key _ _ (by omega) (jacobiMeasure_swap_lt (by omega))]

theorem jacobi_of_bound {f a n : Nat} (hn : 0 < n) (h : jacobiMeasure a n < f) :
    jacobiCalls f a n = jacobi a n := by
  refine jacobiCalls_bound _ _ _ _ hn h ?_
  unfold jacobiMeasure
  split <;> omega

/-- The two operands of a call that is neither a base case nor a reduction swap at a positive
modulus. -/
theorem jacobi_unroll {a n : Nat} (hn : 0 < n) :
    jacobi a n =
      if a = 0 then (if n = 1 then 1 else 0)
      else if a = 1 then 1
      else if a = 2 then jacobiTwo n
      else if n ≤ a then jacobi (a % n) n
      else if a % 2 = 0 then jacobiTwo n * jacobi (a / 2) n
      else if a % 4 = 3 ∧ n % 4 = 3 then -jacobi n a
      else jacobi n a := by
  have hb : jacobiMeasure a n < jacobiMeasure a n + 1 := Nat.lt_succ_self _
  rw [← jacobi_of_bound hn hb, jacobiCalls_succ]
  split
  · rfl
  · split
    · rfl
    · split
      · rfl
      · split
        · next h => rw [jacobi_of_bound hn (jacobiMeasure_mod_lt hn h)]
        · next h =>
          rw [jacobi_of_bound hn (jacobiMeasure_half_lt (by omega) (by omega)),
            jacobi_of_bound (by omega) (jacobiMeasure_swap_lt (by omega))]

/-- The symbol takes three values (42_jacobi.md R116). -/
theorem jacobiTwo_cases (n : Nat) : jacobiTwo n = 1 ∨ jacobiTwo n = -1 := by
  unfold jacobiTwo
  split <;> simp

end Sys2Proof.Machine.Arith
end

