-- ==== Sys2Proof/Laws/Modexp.lean ====
section
/-! SUPPORT. The binary method of 44_modexp.md R146 returns the power of R139. -/

namespace Sys2Proof.Machine.Arith

/-- The binary method on the low `k` bits of an exponent that fits them. -/
theorem modexpBits_eq (a n : Nat) : ∀ k e : Nat, e < 2 ^ k → modexpBits a n k e = a ^ e % n := by
  intro k
  induction k with
  | zero =>
    intro e he
    obtain rfl : e = 0 := by simpa using he
    simp [modexpBits]
  | succ k ih =>
    intro e he
    have hr := ih (e / 2) (by rw [pow_succ] at he; omega)
    have hsq : modexpBits a n k (e / 2) * modexpBits a n k (e / 2) % n = a ^ (2 * (e / 2)) % n := by
      rw [hr, ← Nat.mul_mod, ← pow_add, ← two_mul]
    rw [modexpBits]
    split
    · next hodd =>
      rw [hsq, Nat.mod_mul_mod, ← pow_succ]
      congr 2
      omega
    · next heven =>
      rw [hsq]
      congr 2
      omega

/-- `modexp(a, e, n)` is `(a ^ e) mod n` (44_modexp.md R139). -/
theorem modexp_eq (a e n : Nat) : modexp a e n = a ^ e % n :=
  modexpBits_eq a n _ e (lt_two_pow_bitlen e)

theorem fermatPower_eq (s n : Nat) : fermatPower s n = s ^ (n - 2) % n := modexp_eq _ _ _

theorem modexp_lt (a e : Nat) {n : Nat} (h : n ≠ 0) : modexp a e n < n := by
  rw [modexp_eq]
  exact Nat.mod_lt _ (Nat.pos_of_ne_zero h)

end Sys2Proof.Machine.Arith
end

