-- ==== Sys2Proof/Laws/Source.lean ====
section
/-! SUPPORT. The random source's draws, and what PTEST's loop does with them. -/

namespace Sys2Proof.Machine

/-- Every answer is below `2 ^ k`, whatever is offered (00_scope.md R17). -/
theorem RandomSource.draw_lt (r : RandomSource) (k : Nat) : r.draw k < 2 ^ k :=
  Nat.mod_lt _ (Nat.two_pow_pos k)

/-- An offered answer within the range is the answer given. -/
theorem RandomSource.draw_of_offered {raw k : Nat} (rest : List Nat) (m : Nat) (h : raw < 2 ^ k) :
    RandomSource.draw { answers := raw :: rest, drawn := m } k = raw := Nat.mod_eq_of_lt h

theorem RandomSource.after_eq (r : RandomSource) (m : Nat) :
    r.after m = { answers := r.answers.drop m, drawn := r.drawn + m } := by
  induction m generalizing r with
  | zero => rfl
  | succ m ih =>
    rw [RandomSource.after, ih]
    simp [RandomSource.advance, Nat.add_comm, Nat.add_left_comm]

/-- The answer that round number `i` (from 0) of a PTEST of `num` draws (46_ptest.md R157). -/
def roundDraw (num : Nat) (r : RandomSource) (i : Nat) : Nat :=
  (r.after i).draw (Arith.drawBits (num - 2))

theorem roundDraw_succ (num : Nat) (r : RandomSource) (i : Nat) :
    roundDraw num r (i + 1) = roundDraw num r.advance i := rfl

/-- What the loop of 46_ptest.md R158 does: either every round passes and `conf` draws are taken, or
round `i` is the first to reject and `i + 1` draws are taken. -/
theorem ptestRounds_cases (num conf : Nat) (r : RandomSource) :
    ((∀ i < conf, Arith.ssround num (roundDraw num r i) = true) ∧
        ptestRounds num conf r = (true, r.after conf)) ∨
    (∃ i < conf, (∀ j < i, Arith.ssround num (roundDraw num r j) = true) ∧
        Arith.ssround num (roundDraw num r i) = false ∧
        ptestRounds num conf r = (false, r.after (i + 1))) := by
  induction conf generalizing r with
  | zero => exact .inl ⟨by simp, rfl⟩
  | succ conf ih =>
    rw [ptestRounds]
    split
    · next hpass =>
      have h0 : Arith.ssround num (roundDraw num r 0) = true := hpass
      rcases ih r.advance with ⟨hall, heq⟩ | ⟨i, hi, hbefore, hrej, heq⟩
      · refine .inl ⟨fun i hi => ?_, heq⟩
        cases i with
        | zero => exact h0
        | succ i => exact hall i (by omega)
      · refine .inr ⟨i + 1, by omega, fun j hj => ?_, hrej, heq⟩
        cases j with
        | zero => exact h0
        | succ j => exact hbefore j (by omega)
    · next hrej =>
      exact .inr ⟨0, by omega, by simp, Bool.eq_false_of_not_eq_true hrej, rfl⟩

end Sys2Proof.Machine
end

