-- ==== Sys2Proof/Laws/Exec.lean ====
section
/-! SUPPORT. What a completing command can do, said once: the checks of a meaning, then the two
outcomes of 20_memory.md R68. -/

namespace Sys2Proof.Machine

theorem badModulus_iff (n : Nat) : badModulus n = true ↔ n = 0 ∨ n % 2 = 0 := by simp [badModulus]

theorem badModulus_eq_false_iff (n : Nat) : badModulus n = false ↔ n % 2 = 1 := by
  simp only [badModulus, decide_eq_false_iff_not]
  omega

/-- What a command leaves alone when it completes without fault (20_memory.md R68, 10_state.md R24):
everything but `R[RD]`, the result flags, `BUSY`, `DONE` and the random source. -/
structure Completes (s t : State) : Prop where
  busy : t.busy = false
  done : t.done = true
  err : t.err = s.err
  haz : t.haz = s.haz
  ieDone : t.ieDone = s.ieDone
  ieErr : t.ieErr = s.ieErr
  cur : t.cur = s.cur
  agenda : t.agenda = s.agenda
  replies : t.replies = s.replies

theorem Completes.finish (s : State) : Completes s s.finish := by constructor <;> rfl

theorem Completes.value (rd : Reg) (v : Nat) (s : State) : Completes s (s.completeValue rd v) := by
  constructor <;> rfl

theorem Completes.valueDrawn (rd : Reg) (v : Nat) (r : RandomSource) (s : State) :
    Completes s ((s.completeValue rd v).setSource r) := by constructor <;> rfl

theorem Completes.symbol (rd : Reg) (v : Nat) (j : Int) (s : State) :
    Completes s ((s.completeValue rd v).setJres j) := by constructor <;> rfl

theorem Completes.verdict (b : Bool) (r : RandomSource) (s : State) :
    Completes s (((s.setPrime b).setSource r).finish) := by constructor <;> rfl

/-- The modulus check of JACOBI, MODEXP and MODMUL: the fault, or the rest of the meaning on an odd
modulus (60_exceptions.md R201). -/
theorem modulus_check_cases (n : Nat) (s : State) (r : Result) :
    (n % 2 = 0 ∧ (if badModulus n then .next (s.takeFault .modulus) else r) =
        (.next (s.takeFault .modulus) : Result)) ∨
    (n % 2 = 1 ∧ (if badModulus n then .next (s.takeFault .modulus) else r) = r) := by
  rcases Nat.mod_two_eq_zero_or_one n with h | h
  · exact .inl ⟨h, by simp [(badModulus_iff n).mpr (.inr h)]⟩
  · exact .inr ⟨h, by simp [(badModulus_eq_false_iff n).mpr h]⟩

/-- What `exec` can do: the fault entry, or a completion. -/
theorem exec_cases (i : Instr) (s : State) :
    (∃ e, exec i s = .next (s.takeFault e)) ∨ (∃ t, exec i s = .next t ∧ Completes s t) := by
  cases i with
  | nop => exact .inr ⟨_, rfl, .finish s⟩
  | sample rd rmin rmax =>
    simp only [exec, execSample]
    split
    · exact .inl ⟨_, rfl⟩
    · exact .inr ⟨_, rfl, .valueDrawn ..⟩
  | jacobi rd ra rn =>
    simp only [exec, execJacobi]
    split
    · exact .inl ⟨_, rfl⟩
    · exact .inr ⟨_, rfl, .symbol ..⟩
  | gcd rd ra rb => exact .inr ⟨_, rfl, .value ..⟩
  | modexp rd ra re rn =>
    simp only [exec, execModexp]
    split
    · exact .inl ⟨_, rfl⟩
    · exact .inr ⟨_, rfl, .value ..⟩
  | modmul rd ra rb rn =>
    simp only [exec, execModmul]
    split
    · exact .inl ⟨_, rfl⟩
    · exact .inr ⟨_, rfl, .value ..⟩
  | modinv rd rs rn =>
    simp only [exec, execModinv]
    split
    · exact .inl ⟨_, rfl⟩
    · split
      · exact .inl ⟨_, rfl⟩
      · exact .inr ⟨_, rfl, .value ..⟩
  | ptest rn conf =>
    simp only [exec, execPtest]
    split
    · exact .inl ⟨_, rfl⟩
    · split
      · exact .inl ⟨_, rfl⟩
      · exact .inr ⟨_, rfl, .verdict ..⟩

end Sys2Proof.Machine
end

