-- ==== Sys2Proof/Laws/Step.lean ====
section
/-! SUPPORT. What a step can do, said once; every whole-machine statement is a case analysis on it. -/

namespace Sys2Proof.Machine

/-- What the engine's turn can do: nothing while idle, the fault entry, or a completion. -/
theorem engineTurn_cases (s : State) :
    (s.busy = false ∧ engineTurn s = .next s) ∨
    (s.busy = true ∧ ∃ e, engineTurn s = .next (s.takeFault e)) ∨
    (s.busy = true ∧ ∃ i t, decode s.cur = .ok i ∧ exec i s = .next t ∧ engineTurn s = .next t ∧
      Completes s t) := by
  unfold engineTurn
  cases hb : s.busy with
  | false => exact .inl ⟨rfl, by simp⟩
  | true =>
    simp only [if_true]
    cases hd : decode s.cur with
    | error e => exact .inr (.inl ⟨trivial, _, rfl⟩)
    | ok i =>
      rcases exec_cases i s with ⟨e, he⟩ | ⟨t, ht, hc⟩
      · exact .inr (.inl ⟨trivial, e, he⟩)
      · exact .inr (.inr ⟨trivial, i, t, rfl, ht, ht, hc⟩)

theorem engineTurn_next (s : State) : ∃ t, engineTurn s = .next t := by
  rcases engineTurn_cases s with ⟨_, h⟩ | ⟨_, _, h⟩ | ⟨_, _, t, _, _, h, _⟩ <;> exact ⟨_, h⟩

/-- A step's next state, event by event. -/
theorem runEvent_next_cases {c : Config.Params} {e : Event} {s t : State}
    (h : runEvent c e s = .next t) :
    (e = .engine ∧ engineTurn s = .next t) ∨
    (e = .reset ∧ t = s.resetEngine) ∨
    (∃ off, e = .read .word off ∧ off ≤ 0x1FFF ∧ off % 4 = 0 ∧
      t = (hostRead c off s).2.reply (hostRead c off s).1) ∨
    (∃ off v, e = .write .word off v ∧ off ≤ 0x1FFF ∧ off % 4 = 0 ∧ t = hostWrite c off v s) := by
  cases e with
  | engine => exact .inl ⟨rfl, h⟩
  | reset => exact .inr (.inl ⟨rfl, by simpa [runEvent] using h.symm⟩)
  | read size off =>
    simp only [runEvent, readStep] at h
    split at h
    · cases h
    · next hn =>
      obtain ⟨rfl, h1, h2⟩ := (accessFault_none_iff _ _).mp hn
      exact .inr (.inr (.inl ⟨off, rfl, h1, h2, by simpa using h.symm⟩))
  | write size off v =>
    simp only [runEvent, writeStep] at h
    split at h
    · cases h
    · next hn =>
      obtain ⟨rfl, h1, h2⟩ := (accessFault_none_iff _ _).mp hn
      exact .inr (.inr (.inr ⟨off, v, rfl, h1, h2, by simpa using h.symm⟩))

/-- What a step can do: one constructor per kind of event and outcome (20_memory.md R70). -/
inductive StepTo (c : Config.Params) (s : State) : State → Prop where
  /-- The turn of an idle engine (70_reset_and_hazards.md R231). -/
  | idle (he : s.nextEvent = .engine) (hb : s.busy = false) : StepTo c s s.rest
  /-- A completion with a fault (60_exceptions.md R204). -/
  | fault (he : s.nextEvent = .engine) (hb : s.busy = true) (e : FaultCode) :
      StepTo c s (s.rest.takeFault e)
  /-- A completion without fault (20_memory.md R68). -/
  | complete {t : State} {i : Instr} (he : s.nextEvent = .engine) (hb : s.busy = true)
      (hd : decode s.cur = .ok i) (hx : exec i s.rest = .next t) (hc : Completes s.rest t) :
      StepTo c s t
  | reset (he : s.nextEvent = .reset) : StepTo c s s.rest.resetEngine
  /-- A read that changes nothing of the engine (20_memory.md R66). -/
  | read {off : Nat} (he : s.nextEvent = .read .word off) (w : Word)
      (h : s.busy = false ∨ ∀ i j, busTarget c off ≠ .limb i j) : StepTo c s (s.rest.reply w)
  /-- A read of an operand limb while busy (20_memory.md R60). -/
  | readRefused {off : Nat} {i : Reg} {j : Nat} (he : s.nextEvent = .read .word off)
      (hb : s.busy = true) (ht : busTarget c off = .limb i j) :
      StepTo c s (s.rest.markHaz.reply 0)
  /-- A write that is ignored (20_memory.md R56, R57). -/
  | ignored {off : Nat} {v : Word} (he : s.nextEvent = .write .word off v)
      (ht : busTarget c off = .id ∨ busTarget c off = .cfg ∨ busTarget c off = .reserved) :
      StepTo c s s.rest
  | ctrl {v : Word} (he : s.nextEvent = .write .word 0x0008 v) : StepTo c s (s.rest.writeCtrl v)
  | status {v : Word} (he : s.nextEvent = .write .word 0x000C v) : StepTo c s (s.rest.writeStatus v)
  | accept {w : Word} (he : s.nextEvent = .write .word 0x0010 w) (hb : s.busy = false)
      (h0 : s.err = 0#4) : StepTo c s (s.rest.accept w)
  | refuse {w : Word} (he : s.nextEvent = .write .word 0x0010 w)
      (h : s.busy = true ∨ s.err ≠ 0#4) : StepTo c s s.rest.markHaz
  /-- A write of an operand limb while busy (20_memory.md R61). -/
  | writeRefused {off : Nat} {v : Word} {i : Reg} {j : Nat} (he : s.nextEvent = .write .word off v)
      (hb : s.busy = true) (ht : busTarget c off = .limb i j) : StepTo c s s.rest.markHaz
  /-- A write of an operand limb while idle (20_memory.md R59). -/
  | limb {v : Word} {i : Reg} {j : Nat} (he : s.nextEvent = .write .word (limbOffset i j) v)
      (hb : s.busy = false) (hj : j < c.limbs) :
      StepTo c s (s.rest.setReg i (Arith.setLimb (s.reg i) j v))

theorem stepTo_read (c : Config.Params) {s : State} {off : Nat}
    (he : s.nextEvent = .read .word off) :
    StepTo c s ((hostRead c off s.rest).2.reply (hostRead c off s.rest).1) := by
  unfold hostRead
  split
  case h_7 i j ht =>
    split
    · next hb => exact .readRefused he hb ht
    · next hb => exact .read he _ (.inl (Bool.eq_false_of_not_eq_true hb))
  all_goals exact .read he _ (.inr fun i j => by simp_all)

theorem stepTo_write (c : Config.Params) {s : State} {off : Nat} {v : Word}
    (he : s.nextEvent = .write .word off v) (ho : off ≤ 0x1FFF) (ha : off % 4 = 0) :
    StepTo c s (hostWrite c off v s.rest) := by
  obtain ⟨-, -, hctrl, hstatus, hcmd⟩ := busTarget_eq_register (c := c) (off := off)
  unfold hostWrite
  split
  · next ht => exact .ignored he (.inl ht)
  · next ht => exact .ignored he (.inr (.inl ht))
  · next ht => exact .ctrl (hctrl.mp ht ▸ he)
  · next ht => exact .status (hstatus.mp ht ▸ he)
  · next ht =>
    have he' := hcmd.mp ht ▸ he
    rcases offer_cases v s.rest with ⟨hb, h0, h⟩ | ⟨hr, h⟩ <;> rw [h]
    · exact .accept he' hb h0
    · exact .refuse he' hr
  · next ht => exact .ignored he (.inr (.inr ht))
  · next i j ht =>
    split
    · next hb => exact .writeRefused he hb ht
    · next hb =>
      obtain ⟨rfl, hj⟩ := busTarget_eq_limb ht ho ha
      exact .limb he (Bool.eq_false_of_not_eq_true hb) hj

/-- The inversion of `stepAt`. -/
theorem stepTo_of_stepAt {c : Config.Params} {s t : State} (h : stepAt c s = .next t) :
    StepTo c s t := by
  rcases runEvent_next_cases h with ⟨he, h⟩ | ⟨he, rfl⟩ | ⟨off, he, -, -, rfl⟩ |
    ⟨off, v, he, ho, ha, rfl⟩
  · rcases engineTurn_cases s.rest with ⟨hb, h1⟩ | ⟨hb, e, h1⟩ | ⟨hb, i, t', hd, hx, h1, hc⟩ <;>
      rw [h1] at h <;> cases h
    · exact .idle he hb
    · exact .fault he hb e
    · exact .complete he hb hd hx hc
  · exact .reset he
  · exact stepTo_read c he
  · exact stepTo_write c he ho ha

end Sys2Proof.Machine
end

