-- ==== Sys2Proof/Laws/HostSeq.lean ====
section
/-! SUPPORT. What the host gets when it issues one command to an idle engine. -/

namespace Sys2Proof.Machine

@[simp] theorem next?_next (t : State) : Result.next? (.next t) = some t := rfl

theorem next?_eq_some {r : Result} {t : State} : r.next? = some t ↔ r = .next t := by
  cases r <;> simp [Result.next?]

/-- An accepted command, then the engine's turn: the `Complete` step of the command on the state of
acceptance (20_memory.md R64, R68). -/
theorem runCommand_of_idle (c : Config.Params) {i : Instr} {s : State} (hb : s.busy = false)
    (he : s.err = 0#4) (hd : decode (encode i) = .ok i) :
    runCommand c i s = exec i (s.accept (encode i)) := by
  have hoffer : stepAt c { s with agenda := commandEvent i :: .engine :: s.agenda } =
      .next ((s.accept (encode i)).setAgenda (.engine :: s.agenda)) := by
    simp [stepAt, State.nextEvent, State.rest, State.setAgenda, commandEvent, runEvent, writeStep,
      accessFault, hostWrite, busTarget, State.offer, State.accept, hb, he]
  have hturn : stepAt c ((s.accept (encode i)).setAgenda (.engine :: s.agenda)) =
      exec i (s.accept (encode i)) := by
    change engineTurn (s.accept (encode i)) = _
    simp [engineTurn, hd]
  rw [runCommand, runAt, hoffer]
  change runAt c 1 _ = _
  rw [runAt, hturn]
  cases exec i (s.accept (encode i)) <;> rfl

/-- After a command that ends without fault the host finds the engine idle again, with its own agenda. -/
theorem Completes.idle_of_accept {w : Word} {s t : State} (h : Completes (s.accept w) t) :
    t.busy = false ∧ t.err = s.err ∧ t.agenda = s.agenda :=
  ⟨h.busy, h.err, h.agenda⟩

end Sys2Proof.Machine
end

