-- ==== Sys2Proof/Laws/PerInstr.lean ====
section
/-! SUPPORT. The family `Fields`: the fields of each command's encoding, as the table of
30_encoding.md R82 gives them, read back from the word. -/

namespace Sys2Proof.Laws.Fields

/-- The fields of the word of a well-formed command: its own, and 0 where R82 says "must be 0". -/
def Statement (i : Instr) : Prop :=
  i.wf = true →
    match i with
    | .nop => HasFields (encode .nop) 0x00 0 0 0 0 0
    | .sample rd rmin rmax => HasFields (encode (.sample rd rmin rmax)) 0x01 rd rmin rmax 0 0
    | .jacobi rd ra rn => HasFields (encode (.jacobi rd ra rn)) 0x02 rd ra 0 rn 0
    | .gcd rd ra rb => HasFields (encode (.gcd rd ra rb)) 0x03 rd ra rb 0 0
    | .modexp rd ra re rn => HasFields (encode (.modexp rd ra re rn)) 0x04 rd ra re rn 0
    | .modmul rd ra rb rn => HasFields (encode (.modmul rd ra rb rn)) 0x05 rd ra rb rn 0
    | .modinv rd rs rn => HasFields (encode (.modinv rd rs rn)) 0x06 rd rs 0 rn 0
    | .ptest rn conf => HasFields (encode (.ptest rn conf)) 0x07 0 0 0 rn conf
where
  /-- The fields of a command word (30_encoding.md R81). -/
  HasFields (w : Word) (op : Nat) (rd ra rb rn : Reg) (imm : Nat) : Prop :=
    (fieldOP w).toNat = op ∧ fieldRD w = rd ∧ fieldRA w = ra ∧ fieldRB w = rb ∧ fieldRN w = rn ∧
      fieldIMM w = imm

/-- The fields of a word built by R92's formula are the fields it was built from. -/
theorem hasFields_ofNat {op imm : Nat} (rd ra rb rn : Reg) (hop : op < 256) (himm : imm < 4096) :
    Statement.HasFields (BitVec.ofNat 32 (encodeFields op rd ra rb rn imm)) op rd ra rb rn imm := by
  have h1 := rd.isLt
  have h2 := ra.isLt
  have h3 := rb.isLt
  have h4 := rn.isLt
  have hw : (BitVec.ofNat 32 (encodeFields op rd ra rb rn imm)).toNat =
      encodeFields op rd ra rb rn imm := by
    rw [BitVec.toNat_ofNat, Nat.mod_eq_of_lt]
    unfold encodeFields
    omega
  simp only [Statement.HasFields, Fin.ext_iff, fieldOP_toNat, fieldRD_val, fieldRA_val,
    fieldRB_val, fieldRN_val, fieldIMM_eq, hw]
  unfold encodeFields
  omega

theorem nop : Statement .nop := fun _ => hasFields_ofNat 0 0 0 0 (by omega) (by omega)

theorem sample (rd rmin rmax : Reg) : Statement (.sample rd rmin rmax) :=
  fun _ => hasFields_ofNat rd rmin rmax 0 (by omega) (by omega)

theorem jacobi (rd ra rn : Reg) : Statement (.jacobi rd ra rn) :=
  fun _ => hasFields_ofNat rd ra 0 rn (by omega) (by omega)

theorem gcd (rd ra rb : Reg) : Statement (.gcd rd ra rb) :=
  fun _ => hasFields_ofNat rd ra rb 0 (by omega) (by omega)

theorem modexp (rd ra re rn : Reg) : Statement (.modexp rd ra re rn) :=
  fun _ => hasFields_ofNat rd ra re rn (by omega) (by omega)

theorem modmul (rd ra rb rn : Reg) : Statement (.modmul rd ra rb rn) :=
  fun _ => hasFields_ofNat rd ra rb rn (by omega) (by omega)

theorem modinv (rd rs rn : Reg) : Statement (.modinv rd rs rn) :=
  fun _ => hasFields_ofNat rd rs 0 rn (by omega) (by omega)

theorem ptest (rn : Reg) (conf : Nat) : Statement (.ptest rn conf) :=
  fun h => hasFields_ofNat 0 0 0 rn (by omega) (by simpa [Instr.wf, confFits] using h)

end Sys2Proof.Laws.Fields
end

