-- ==== Sys2Proof/Tests/Slice0.lean ====
section
/-! SUPPORT. Tests: expected values from 95_test_vectors.md and the worked examples of the rules, never
from the model; and for every obligation with hypotheses a named witness that meets them. -/

namespace Sys2Proof.Tests

open Sys2Proof.Machine

/-! ## Small states -/

/-- The smallest engine, `W = 64` (00_scope.md R7). -/
def small : Config.Params := { limbs := 2 }

/-- The widest engine, `W = 4096` (00_scope.md R7). -/
def wide : Config.Params := { limbs := 128 }

/-- The reset state with operand registers `r`. -/
def holding (r : Vector Nat 8) : State := { State.reset with regs := r }

/-- `s` with `e` the next event. -/
def facing (e : Event) (s : State) : State := { s with agenda := [e] }

/-- `s` with the command word `w` in flight. -/
def running (w : Word) (s : State) : State := { s with cur := w, busy := true, done := false }

/-- `s` with the answers `l` offered to the next draws. -/
def offering (l : List Nat) (s : State) : State := { s with source := { answers := l, drawn := 0 } }

/-- One field of the next state of a command that completes from `s`, with `STATUS` beside it. -/
def outcome (w : Word) (k : Reg) (s : State) : Option (Nat × Word) :=
  (Result.next? (engineTurn (running w s))).map fun t => (t.reg k, t.statusWord)

/-! ## Well-formed commands (30_encoding.md R83) -/

theorem test_wf_refuses_conf_4096 : (Instr.ptest 1 4096).wf = false := by decide
theorem test_wf_accepts_conf_4095 : (Instr.ptest 7 4095).wf = true := by decide

/-! ## Decoding: words written out from 30_encoding.md R84; names from 95_test_vectors.md 2.8 -/

theorem test_decode_nop :
    decode 0b00000000_000_000_000_000_000000000000#32 = .ok .nop := by decide
theorem test_decode_sample :
    decode 0b00000001_001_010_011_000_000000000000#32 = .ok (.sample 1 2 3) := by decide
theorem test_decode_jacobi :
    decode 0b00000010_010_000_000_001_000000000000#32 = .ok (.jacobi 2 0 1) := by decide
theorem test_decode_gcd :
    decode 0b00000011_011_000_001_000_000000000000#32 = .ok (.gcd 3 0 1) := by decide
theorem test_decode_modexp :
    decode 0b00000100_100_000_010_001_000000000000#32 = .ok (.modexp 4 0 2 1) := by decide
theorem test_decode_modmul :
    decode 0b00000101_101_100_110_001_000000000000#32 = .ok (.modmul 5 4 6 1) := by decide
theorem test_decode_modinv :
    decode 0b00000110_110_100_000_001_000000000000#32 = .ok (.modinv 6 4 1) := by decide
theorem test_decode_ptest :
    decode 0b00000111_000_000_000_111_111111111111#32 = .ok (.ptest 7 4095) := by decide

/-- The words of the worked examples, in hexadecimal (30_encoding.md R92, 95_test_vectors.md 2.8). -/
theorem test_encode_worked_words :
    encode (.modexp 4 0 2 1) = 0x04811000#32 ∧ encode (.ptest 1 32) = 0x07001020#32 ∧
    encode (.modexp 7 7 7 7) = 0x04FFF000#32 ∧ encode (.modinv 5 5 1) = 0x06B41000#32 := by decide

/-- The words 95_test_vectors.md 2.8 lists as decoding to nothing. -/
theorem test_decode_refuses :
    decode 0x08000000#32 = .error (.unknownOpcode 8) ∧
    decode 0xFFFFFFFF#32 = .error (.unknownOpcode 255) ∧
    decode 0x00000001#32 = .error (.reservedFieldNotZero 0) ∧
    decode 0x01299000#32 = .error (.reservedFieldNotZero 1) ∧
    decode 0x04811001#32 = .error (.reservedFieldNotZero 4) ∧
    decode 0x07201020#32 = .error (.reservedFieldNotZero 7) ∧
    decode 0x02409000#32 = .error (.reservedFieldNotZero 2) := by decide

theorem test_decodeTableWord :
    decodeTableWord 32 0x06D01000 = some (.modinv 6 4 1) ∧
    decodeTableWord 32 0x08000000 = none := by decide

/-! ## One command each (95_test_vectors.md 2.1 to 2.8): the register, and `STATUS` after -/

theorem test_nop_after_reset : outcome 0x00000000#32 0 State.reset = some (0, 0x00000002#32) := by
  decide
/-- 40_control.md R100, worked example: `R[3]` and `Z` are kept. -/
theorem test_nop_keeps :
    outcome 0x00000000#32 3 { holding #v[0, 0, 0, 99, 0, 0, 0, 0] with z := true } =
      some (99, 0x00000102#32) := by decide

theorem test_sample_worked :
    outcome 0x01298000#32 1 (offering [31] (holding #v[0, 0, 1, 11, 0, 0, 0, 0])) =
      some (10, 0x00000002#32) := by decide
theorem test_sample_empty_interval :
    outcome 0x01298000#32 1 (offering [31] (holding #v[0, 77, 5, 3, 0, 0, 0, 0])) =
      some (77, 0x00000032#32) := by decide

theorem test_jacobi_worked :
    outcome 0x02401000#32 2 (holding #v[7, 15, 0, 0, 0, 0, 0, 0]) = some (14, 0x00001802#32) := by
  decide
theorem test_jacobi_even_modulus :
    outcome 0x02401000#32 2 (holding #v[7, 10, 99, 0, 0, 0, 0, 0]) = some (99, 0x00000022#32) := by
  decide
/-- The call chain of 95_test_vectors.md 2.2. -/
theorem test_jacobi_chain : Arith.jacobi 1001 9907 = -1 := by decide +kernel

theorem test_gcd_worked :
    outcome 0x03608000#32 3 (holding #v[21, 6, 0, 0, 0, 0, 0, 0]) = some (3, 0x00000002#32) := by
  decide
theorem test_gcd_of_zeros : outcome 0x03000000#32 0 State.reset = some (0, 0x00000102#32) := by decide

theorem test_modexp_worked :
    outcome 0x04811000#32 4 (holding #v[5, 23, 11, 0, 0, 0, 0, 0]) = some (22, 0x00000002#32) := by
  decide
/-- A two-limb exponent: `3 ^ (2^32) mod 65537 = 1`. -/
theorem test_modexp_wide_exponent :
    outcome 0x04811000#32 4 (holding #v[3, 65537, 4294967296, 0, 0, 0, 0, 0]) =
      some (1, 0x00000202#32) := by decide +kernel

theorem test_modmul_worked :
    outcome 0x05B31000#32 5 (holding #v[0, 23, 0, 0, 7, 0, 8, 0]) = some (10, 0x00000002#32) := by
  decide
theorem test_modmul_wide_product :
    outcome 0x05B31000#32 5 (holding #v[0, 2 ^ 61 - 1, 0, 0, 2 ^ 40, 0, 2 ^ 40, 0]) =
      some (524288, 0x00000002#32) := by decide

theorem test_modinv_worked :
    outcome 0x06D01000#32 6 (holding #v[0, 23, 0, 0, 2, 0, 0, 0]) = some (12, 0x00000002#32) := by
  decide
theorem test_modinv_modulus_one :
    outcome 0x06D01000#32 6 (holding #v[0, 1, 0, 0, 5, 0, 0, 0]) = some (0, 0x00000032#32) := by
  decide

theorem test_ptest_worked :
    (Result.next? (engineTurn (running 0x07001002#32
      (offering [6, 31] (holding #v[0, 13, 0, 0, 0, 0, 0, 0]))))).map
        (fun t => (t.statusWord, t.source.drawn)) = some (0x00000402#32, 2) := by decide +kernel
theorem test_ptest_early_exit :
    (Result.next? (engineTurn (running 0x07001003#32
      (offering [0, 1, 5] (holding #v[0, 9, 0, 0, 0, 0, 0, 0]))))).map
        (fun t => (t.statusWord, t.source.answers)) = some (0x00000002#32, [5]) := by decide +kernel

theorem test_illegal_word : outcome 0x08000000#32 0 State.reset = some (0, 0x00000012#32) := by decide

/-! ## The port (95_test_vectors.md 2.9), `W = 2048` -/

/-- The word a read of `off` returns, and `STATUS` after it. -/
def reads (off : Nat) (s : State) : Option (List Word × Word) :=
  (Result.next? (step (facing (.read .word off) s))).map fun t => (t.replies, t.statusWord)

theorem test_read_id : reads 0x0000 State.reset = some ([0x4C430001#32], 0#32) := by decide
theorem test_read_cfg : reads 0x0004 State.reset = some ([0x00000840#32], 0#32) := by decide
theorem test_read_limb_1 :
    reads 0x1204 (holding #v[0, 4294967301, 0, 0, 0, 0, 0, 0]) = some ([1#32], 0#32) := by decide
theorem test_read_limb_while_busy :
    reads 0x1200 (running 0#32 (holding #v[0, 5, 0, 0, 0, 0, 0, 0])) = some ([0#32], 0x00000005#32) := by
  decide
theorem test_write_limb_1 :
    (Result.next? (step (facing (.write .word 0x1204 1#32) (holding #v[0, 5, 0, 0, 0, 0, 0, 0])))).map
      (fun t => t.reg 1) = some 4294967301 := by decide
theorem test_write_ctrl :
    (Result.next? (step (facing (.write .word 0x0008 0xFFFFFFFF#32) State.reset))).map
      State.ctrlWord = some 3#32 := by decide
theorem test_offer_to_idle_engine :
    (Result.next? (step (facing (.write .word 0x0010 0#32) State.reset))).map
      State.statusWord = some 0x00000001#32 := by decide
theorem test_clear_done_and_haz :
    (Result.next? (step (facing (.write .word 0x000C 6#32)
      { State.reset with done := true, haz := true }))).map State.statusWord = some 0#32 := by decide
/-- `LD` on the smallest engine: two writes, limb 0 first (30_encoding.md R91). -/
theorem test_ld_events :
    ldEvents small 1 4294967301 =
      [.write .word 0x1200 5#32, .write .word 0x1204 1#32] := by decide
theorem test_fetch_word_is_run :
    (Result.next? (step (State.reset.withFetchWord 32 0x03608000))).map
      (fun t => (t.cur, t.statusWord)) = some (0x03608000#32, 0x00000102#32) := by decide

/-! ## Witnesses: states and operands that meet the hypotheses of the obligations -/

theorem small_valid : small.Valid := by decide
theorem wide_valid : wide.Valid := by decide

/-- An idle state with the invariant, `DONE` and a fault pending, registers at their bound. -/
def idleFull : State :=
  { holding #v[0, 2 ^ 64 - 1, 1, 3, 15, 7, 2, 9] with done := true, err := 2, haz := true }

/-- A state with the invariant and a command in flight. -/
def flight (w : Word) : State := running w (holding #v[0, 2 ^ 64 - 1, 1, 3, 15, 7, 2, 9])

theorem idleFull_inv : idleFull.Inv small := ⟨by decide, by decide, by decide, by decide⟩
theorem flight_inv (w : Word) : (flight w).Inv small :=
  ⟨by simp [flight, running, holding, State.reg]; decide, by simp [flight, running, holding, State.reset],
    by simp [flight, running, holding, State.reset],
    fun _ => ⟨rfl, rfl⟩⟩

theorem witness_DecodeOfEncode :
    Instr.nop.wf = true ∧ (Instr.sample 7 7 7).wf = true ∧ (Instr.jacobi 7 7 7).wf = true ∧
    (Instr.gcd 7 7 7).wf = true ∧ (Instr.modexp 7 7 7 7).wf = true ∧
    (Instr.modmul 7 7 7 7).wf = true ∧ (Instr.modinv 7 7 7).wf = true ∧
    (Instr.ptest 7 4095).wf = true := by decide

theorem witness_EncodeOfDecode : decode 0x07007FFF#32 = .ok (.ptest 7 4095) := by decide

/-- Each case of 30_encoding.md R87 at its edge: `OP = 0x08`, and one reserved field set for each
opcode. -/
theorem witness_IllegalWords :
    8 ≤ (fieldOP 0x08000000#32).toNat ∧ reservedFieldSet 0x00000001#32 ∧
    reservedFieldSet 0x01001000#32 ∧ reservedFieldSet 0x02008000#32 ∧ reservedFieldSet 0x03000001#32 ∧
    reservedFieldSet 0x04000800#32 ∧ reservedFieldSet 0x05000001#32 ∧ reservedFieldSet 0x06038000#32 ∧
    reservedFieldSet 0x07008000#32 := by
  refine ⟨by decide, ?_, ?_, ?_, ?_, ?_, ?_, ?_, ?_⟩ <;> unfold reservedFieldSet <;> decide
theorem witness_IllegalWords_turn :
    (facing .engine (running 0x08000000#32 State.reset)).nextEvent = .engine ∧
    (facing .engine (running 0x08000000#32 State.reset)).busy = true ∧
    decode (facing .engine (running 0x08000000#32 State.reset)).cur = .error (.unknownOpcode 8) := by
  decide

theorem witness_StepRunsTheDecodedCommand :
    (running 0x03608000#32 State.reset).nextEvent = .engine ∧
    (running 0x03608000#32 State.reset).busy = true ∧
    decode (running 0x03608000#32 State.reset).cur = .ok (.gcd 3 0 1) := by decide

theorem witness_EveryCommandCompletes :
    (flight 0#32).nextEvent = .engine ∧ (flight 0#32).busy = true := by decide

theorem witness_IdleEngineKeepsItsState :
    (idleFull.busy = false ∧ idleFull.nextEvent = .engine ∧ stepAt small idleFull = .next idleFull) ∧
    ((facing (.read .word 0) idleFull).busy = false ∧
      (facing (.read .word 0) idleFull).nextEvent = .read .word 0 ∧
      stepAt small (facing (.read .word 0) idleFull) =
        .next { idleFull with replies := [0x4C430001#32] }) :=
  ⟨⟨rfl, rfl, rfl⟩, rfl, rfl, rfl⟩

/-- 20_memory.md R52, R55 at the edges: `0x1FFC` is the last word; `0x1FFE` is misaligned, `0x2000`
outside, a byte no access. -/
theorem witness_OnlyNonWordAccessesAreStuck :
    accessFault .word 0x1FFC = none ∧ accessFault .word 0x1FFE = some (.misaligned 0x1FFE) ∧
    accessFault .word 0x2000 = some (.outsideBlock 0x2000) ∧
    accessFault .byte 0x1000 = some (.notAWordAccess .byte) := by decide

theorem witness_NopMeaning :
    exec .nop State.reset = .next State.reset.finish ∧
    (facing (.write .word 0x0010 (encode .nop)) idleFull).nextEvent =
      .write .word 0x0010 (encode .nop) ∧
    (facing (.write .word 0x0010 (encode .nop)) idleFull).err ≠ 0 ∧
    ({ State.reset with ieDone := true } : State).ieDone = true ∧
    exec .nop { State.reset with ieDone := true } =
      .next ({ State.reset with ieDone := true } : State).finish ∧
    fieldOP 0x00000001#32 = 0 ∧ 0x00000001#32 ≠ 0 := ⟨rfl, rfl, by decide, rfl, rfl, rfl, by decide⟩

/-- Both clauses where they meet: `min = max`, and `max = min - 1`. -/
theorem witness_SampleMeaning :
    (holding #v[5, 5, 4, 0, 0, 0, 0, 0]).reg 0 ≤ (holding #v[5, 5, 4, 0, 0, 0, 0, 0]).reg 1 ∧
    (holding #v[5, 5, 4, 0, 0, 0, 0, 0]).reg 2 < (holding #v[5, 5, 4, 0, 0, 0, 0, 0]).reg 0 := by
  decide
theorem witness_SampleReachesExactlyItsInterval :
    (holding #v[1, 11, 0, 0, 0, 0, 0, 0]).reg 0 ≤ (holding #v[1, 11, 0, 0, 0, 0, 0, 0]).reg 1 ∧
    31 < 2 ^ (Arith.bitlen ((holding #v[1, 11, 0, 0, 0, 0, 0, 0]).reg 1) + 1) := by decide
theorem witness_DrawsAreFreeAndUnrelated : 31 < 2 ^ 5 ∧ 0 < 2 ^ 1 := by decide
theorem witness_Bitlen : 1 ≤ 1 ∧ Arith.bitlen 1 = 1 ∧ Arith.bitlen 11 = 4 := by decide

/-- An odd modulus for each value of the symbol (95_test_vectors.md 2.2), and the even ones. -/
theorem witness_JacobiMeaning :
    Arith.jacobi 0 3 = 0 ∧ Arith.jacobi 0 1 = 1 ∧ Arith.jacobi 2 3 = -1 ∧
    (idleFull.reg 3 = 3 ∧ idleFull.reg 3 % 2 = 1) ∧ (idleFull.reg 2 = 1 ∧ idleFull.reg 2 % 2 = 1) ∧
    (idleFull.reg 0 = 0 ∧ idleFull.reg 0 % 2 = 0) ∧ (idleFull.reg 6 = 2 ∧ idleFull.reg 6 % 2 = 0) := by
  decide
/-- One pair for each rule, the recursive ones at their least arguments. -/
theorem witness_JacobiObeysItsSixRules :
    5 % 2 = 1 ∧ (3 ≤ 3 ∧ 3 ≤ 3) ∧ (3 ≤ 4 ∧ 4 < 5 ∧ 4 % 2 = 0) ∧
    (7 % 2 = 1 ∧ 3 ≤ 3 ∧ 3 < 7 ∧ 3 % 4 = 3 ∧ 7 % 4 = 3) ∧
    (3 ≤ 3 ∧ 3 < 5 ∧ 3 % 2 = 1 ∧ ¬(3 % 4 = 3 ∧ 5 % 4 = 3)) := by decide
theorem witness_JacobiIsTheJacobiSymbol : 3 % 2 = 1 ∧ Nat.Prime 3 := ⟨rfl, by norm_num⟩

theorem witness_GcdMeaning :
    (idleFull.reg 0 = 0) ∧ ¬(idleFull.reg 0 = 0 ∧ idleFull.reg 2 = 0) ∧
    State.reset.reg 0 = 0 ∧ State.reset.reg 1 = 0 := by decide

theorem witness_ModexpMeaning :
    idleFull.reg 2 = 1 ∧ idleFull.reg 2 % 2 = 1 ∧ idleFull.reg 0 = 0 ∧ idleFull.reg 0 % 2 = 0 := by
  decide
theorem witness_ModmulMeaning :
    idleFull.reg 2 = 1 ∧ idleFull.reg 2 % 2 = 1 ∧ idleFull.reg 6 = 2 ∧ idleFull.reg 6 % 2 = 0 := by
  decide
theorem witness_ModinvMeaning :
    (idleFull.reg 3 % 2 = 1 ∧ 3 ≤ idleFull.reg 3) ∧ idleFull.reg 0 % 2 = 0 ∧ idleFull.reg 6 % 2 = 0 ∧
    idleFull.reg 2 = 1 := by decide
theorem witness_ModinvInvertsModuloAPrime :
    (idleFull.reg 3).Prime ∧ idleFull.reg 3 ≠ 2 ∧ idleFull.reg 2 % idleFull.reg 3 ≠ 0 ∧
    idleFull.reg 0 % idleFull.reg 3 = 0 := ⟨by decide, by decide, by decide, by decide⟩
theorem witness_Round : 3 % 2 = 1 ∧ 3 ≤ 3 ∧ 1 = 1 + 3 % (3 - 2) := by decide

/-- The passes of the draws 0 then 2 on `num = 15` (witnesses 1 and 3, 46_ptest.md R157): round 0
passes, round 1 rejects on the GCD test. With `conf = 1` the first clause applies, with `conf = 2` the
second; `num = 0` and `num = 1` are the faults. -/
theorem witness_PtestMeaning :
    (offering [0, 2] idleFull).reg 4 = 15 ∧
    Arith.ssround 15 ((offering [0, 2] idleFull).source.draw (Arith.bitlen (15 - 2) + 1)) = true ∧
    Arith.ssround 15
      (((offering [0, 2] idleFull).source.after 1).draw (Arith.bitlen (15 - 2) + 1)) = false ∧
    idleFull.reg 0 % 2 = 0 ∧ idleFull.reg 2 = 1 ∧ idleFull.reg 3 = 3 := by decide +kernel
theorem witness_PtestPromises :
    ((idleFull.reg 3).Prime ∧ idleFull.reg 3 % 2 = 1 ∧ 3 ≤ idleFull.reg 3) ∧
    (¬(idleFull.reg 7).Prime ∧ idleFull.reg 7 % 2 = 1 ∧ 3 ≤ idleFull.reg 7) ∧
    ((Result.next? (exec (.ptest 7 1) (offering [2] idleFull))).map State.prime = some false) := by
  decide +kernel

/-- The state of program P1 of 95_test_vectors.md: `num = 13`, the draw 6. -/
def chainStart : State := offering [6] (holding #v[1, 13, 11, 6, 0, 0, 0, 0])

/-- The registers program P1 chooses: `num` in R1, the GCD and the power both in R5. -/
def chainRegs : ChainRegs :=
  { num := 1, min := 0, max := 2, half := 3, witness := 4, divisor := 5, left := 5, symbol := 6 }

/-- For PtestRoundEqualsTheChain and PtestEqualsTheChain. -/
theorem witness_PtestChain_loaded :
    chainRegs.Apart ∧ chainRegs.Loaded chainStart ∧ chainStart.reg 1 % 2 = 1 ∧
    3 ≤ chainStart.reg 1 ∧ chainStart.busy = false ∧ chainStart.err = 0 ∧ 4095 < 4096 := by decide

theorem witness_PtestRoundEqualsTheChain :
    ∃ s1 s2 s3 s4 u : State,
      exec (.sample 4 0 2) chainStart = .next s1 ∧ exec (.gcd 5 4 1) s1 = .next s2 ∧
      exec (.modexp 5 4 3 1) s2 = .next s3 ∧ exec (.jacobi 6 4 1) s3 = .next s4 ∧
      exec (.ptest 1 1) chainStart = .next u :=
  ⟨_, _, _, _, _, rfl, rfl, rfl, rfl, rfl⟩

/-- Program P1 up to its label PASS, with no `WAIT`: the verdict, `R4` to `R6` and `STATUS`. -/
theorem test_chain_P1 :
    (chain small chainRegs 1 chainStart).map
      (fun p => (p.1, p.2.reg 4, p.2.reg 5, p.2.reg 6, p.2.statusWord)) =
        some (true, 7, 12, 12, 0x00001802#32) := by decide +kernel

/-- 95_test_vectors.md 2.7: `num = 9` with the draws 0, 1, 5 ends at round 2, with one draw left. -/
theorem test_chain_early_exit :
    (chain small chainRegs 3 (offering [0, 1, 5] (holding #v[1, 9, 7, 4, 0, 0, 0, 0]))).map
      (fun p => (p.1, p.2.source.answers)) = some (false, [5]) := by decide +kernel

/-- Every faulting entry of 60_exceptions.md R202 and one that runs. -/
theorem witness_FaultTable :
    faultOn (.sample 0 3 2) idleFull = 3 ∧ faultOn (.jacobi 0 1 0) idleFull = 2 ∧
    faultOn (.modexp 0 1 1 6) idleFull = 2 ∧ faultOn (.modmul 0 1 1 0) idleFull = 2 ∧
    faultOn (.modinv 0 1 0) idleFull = 2 ∧ faultOn (.modinv 0 1 2) idleFull = 3 ∧
    faultOn (.ptest 6 1) idleFull = 2 ∧ faultOn (.ptest 2 0) idleFull = 3 ∧
    faultOn (.gcd 0 1 2) idleFull = 0 ∧ faultOn (.ptest 3 0) idleFull = 0 ∧
    (flight 0x08000000#32).busy = true ∧
    decode (flight 0x08000000#32).cur = .error (.unknownOpcode 8) := by decide

theorem witness_CommandFrame :
    exec .nop State.reset = .next State.reset.finish ∧ Instr.nop.dest = none ∧
    exec (.jacobi 2 0 1) State.reset = .next (State.reset.takeFault .modulus) ∧
    faultOn (.jacobi 2 0 1) State.reset ≠ 0 ∧ (Instr.gcd 3 0 1).dest = some 3 ∧
    (Result.next? (exec (.gcd 3 0 1) State.reset)).isSome = true :=
  ⟨rfl, rfl, rfl, by decide, rfl, rfl⟩

theorem witness_ValueFlags :
    (Instr.gcd 3 0 1).dest = some 3 ∧ faultOn (.gcd 3 0 1) State.reset = 0 ∧
    (Result.next? (exec (.gcd 3 0 1) State.reset)).isSome = true ∧
    Instr.nop.dest = none ∧ exec .nop State.reset = .next State.reset.finish :=
  ⟨rfl, rfl, rfl, rfl, rfl⟩

theorem witness_ResultsFit :
    (∀ k : Reg, idleFull.reg k < 2 ^ small.W) ∧
    idleFull.reg 2 ≤ idleFull.reg 3 ∧ idleFull.reg 2 % 2 = 1 ∧ idleFull.reg 3 % 2 = 1 ∧
    3 ≤ idleFull.reg 3 ∧
    (Result.next? (exec (.sample 0 2 3) (offering [1] idleFull))).isSome = true ∧
    (Result.next? (exec (.jacobi 0 1 2) idleFull)).isSome = true ∧
    (Result.next? (exec (.gcd 0 1 2) idleFull)).isSome = true ∧
    (Result.next? (exec (.modexp 0 5 4 2) idleFull)).isSome = true ∧
    (Result.next? (exec (.modmul 0 1 1 2) idleFull)).isSome = true ∧
    (Result.next? (exec (.modinv 0 1 3) idleFull)).isSome = true := by decide

theorem witness_StepKeepsTheInvariant :
    idleFull.Inv small ∧ stepAt small idleFull = .next idleFull ∧
    (flight 0#32).Inv small ∧ stepAt small (flight 0#32) = .next (flight 0#32).finish :=
  ⟨idleFull_inv, rfl, flight_inv _, rfl⟩

theorem witness_ResetAtAnyPoint :
    (facing .reset (flight 0#32)).nextEvent = .reset ∧ (facing .reset (flight 0#32)).busy = true := by
  decide

theorem witness_CommandAccepted :
    (facing (.write .word 0x0010 7#32) State.reset).nextEvent = .write .word 0x0010 7#32 ∧
    (facing (.write .word 0x0010 7#32) State.reset).busy = false ∧
    (facing (.write .word 0x0010 7#32) State.reset).err = 0 := by decide
theorem witness_CommandRefused :
    (facing (.write .word 0x0010 7#32) (flight 0#32)).nextEvent = .write .word 0x0010 7#32 ∧
    (facing (.write .word 0x0010 7#32) (flight 0#32)).busy = true ∧
    (facing (.write .word 0x0010 7#32) idleFull).nextEvent = .write .word 0x0010 7#32 ∧
    (facing (.write .word 0x0010 7#32) idleFull).err ≠ 0 := by decide

/-- Steps that answer a next state, one idle and one that completes: for BusyFollowsTheCommandInFlight,
DoneIsSetByCompletionsOnly, HazMarksRefusedAccesses and HazIsInert. -/
theorem witness_steps :
    stepAt small idleFull = .next idleFull ∧ idleFull.busy = false ∧ idleFull.done = true ∧
    idleFull.haz = true ∧ idleFull.err ≠ 0 ∧
    stepAt small (flight 0#32) = .next (flight 0#32).finish ∧ (flight 0#32).busy = true ∧
    (flight 0#32).done = false ∧ (flight 0#32).haz = false ∧ (flight 0#32).err = 0 :=
  ⟨rfl, rfl, rfl, rfl, by decide, rfl, rfl, rfl, rfl, rfl⟩

/-- The transitions that the clauses about `DONE` and `HAZ` speak of: `DONE` cleared by a `STATUS`
write, `HAZ` set by a refused read of the last limb while busy. -/
theorem witness_Transitions :
    (Result.next? (stepAt small (facing (.write .word 0x000C 0x00000006#32) idleFull))).map
      (fun t => (t.done, t.haz, t.err)) = some (false, false, 2) ∧
    (Result.next? (stepAt small (facing (.read .word 0x1E04) (flight 0#32)))).map
      (fun t => (t.haz, t.busy)) = some (true, true) := by decide

/-- Each kind of access the engine refuses, the first and the last with its step. -/
theorem witness_Refuses :
    Refuses small (.read .word 0x1E04) (flight 0#32) ∧
    Refuses small (.write .word 0x1000 9#32) (flight 0#32) ∧
    Refuses small (.write .word 0x0010 9#32) idleFull ∧
    stepAt small (facing (.read .word 0x1E04) (flight 0#32)) =
      .next { flight 0#32 with haz := true, replies := [0] } ∧
    stepAt small (facing (.write .word 0x0010 9#32) idleFull) = .next idleFull :=
  ⟨⟨rfl, 7, 1, rfl⟩, .inl ⟨rfl, 0, 0, rfl⟩, .inr ⟨rfl, .inr (by decide)⟩, rfl, rfl⟩

/-- A run of two steps of which neither event is refused. -/
theorem witness_ProtocolKeepingHost :
    State.reset.haz = false ∧
    (∀ (m : Nat) (u : State), m < 2 → runAt small m State.reset = .next u →
      ¬Refuses small u.nextEvent u) ∧
    runAt small 2 State.reset = .next State.reset := by
  refine ⟨rfl, fun m u hm h => ?_, rfl⟩
  have : u = State.reset := by
    rcases (show m = 0 ∨ m = 1 by omega) with rfl | rfl <;> exact (Host.Outcome.next.inj h).symm
  subst this
  exact id

theorem witness_ErrIsSticky :
    (flight 0x08000000#32).Inv small ∧
    stepAt small (flight 0x08000000#32) = .next ((flight 0x08000000#32).takeFault .illegal) ∧
    idleFull.Inv small ∧ idleFull.err ≠ 0 ∧
    (Result.next? (stepAt small (facing (.write .word 0x000C 8#32) idleFull))).map State.err = some 0 :=
  ⟨flight_inv _, rfl, idleFull_inv, by decide, by decide⟩

/-- HazIsInert at the one event where the word read differs, a read of STATUS. -/
theorem witness_HazIsInert_status :
    (Result.next? (stepAt small (facing (.read .word 0x000C) State.reset))).map State.replies =
      some [0x00000000#32] ∧
    (Result.next? (stepAt small { facing (.read .word 0x000C) State.reset with haz := true })).map
      State.replies = some [0x00000004#32] := by decide

theorem witness_FrozenInFlight :
    (facing (.write .word 0x1000 9#32) (flight 0#32)).busy = true ∧
    (Result.next? (stepAt small (facing (.write .word 0x1000 9#32) (flight 0#32)))).map
      State.busy = some true := by decide

/-- A register changed by a host write, by a completion and by reset. -/
theorem witness_RegistersChange :
    (Result.next? (stepAt small (facing (.write .word 0x1000 9#32) idleFull))).map (·.reg 0) = some 9 ∧
    (Result.next? (stepAt small (flight 0x03088000#32))).map (·.reg 0) = some 1 ∧
    (Result.next? (stepAt small (facing .reset idleFull))).map (·.reg 1) = some 0 ∧
    idleFull.reg 0 = 0 ∧ (flight 0x03088000#32).reg 0 = 0 ∧ idleFull.reg 1 ≠ 0 := by decide

theorem witness_IdentificationRegisters :
    small.Valid ∧ wide.Valid ∧
    (facing (.read .word 0x0004) idleFull).nextEvent = .read .word 0x0004 ∧
    (facing (.write .word 0x0000 1#32) idleFull).nextEvent = .write .word 0x0000 1#32 := by decide
theorem witness_CtrlRegister :
    (({ flight 0#32 with ieDone := true } : State).finish.ieDone = true ∧
      ({ flight 0#32 with ieDone := true } : State).finish.done = true) ∧
    (({ idleFull with ieErr := true } : State).ieErr = true ∧
      ({ idleFull with ieErr := true } : State).err ≠ 0) ∧
    (facing (.write .word 0x0008 3#32) (flight 0#32)).nextEvent = .write .word 0x0008 3#32 ∧
    (facing (.read .word 0x0008) idleFull).nextEvent = .read .word 0x0008 := by decide
theorem witness_StatusRegister :
    (facing (.write .word 0x000C 14#32) (flight 0#32)).nextEvent = .write .word 0x000C 14#32 ∧
    (facing (.read .word 0x000C) idleFull).nextEvent = .read .word 0x000C := by decide

/-- The first limb of `R[0]` and the last of `R[7]`, on the smallest and on the widest engine. -/
theorem witness_OperandLimbReads :
    0 < small.limbs ∧ 1 < small.limbs ∧ 127 < wide.limbs ∧
    0x1000 + 0x200 * (0 : Reg).val + 4 * 0 = 0x1000 ∧
    0x1000 + 0x200 * (7 : Reg).val + 4 * 127 = 0x1FFC ∧
    (facing (.read .word 0x1FFC) idleFull).nextEvent = .read .word 0x1FFC ∧ idleFull.busy = false ∧
    (facing (.read .word 0x1FFC) (flight 0#32)).busy = true := by decide
theorem witness_OperandLimbWrites :
    (facing (.write .word 0x1FFC 5#32) idleFull).nextEvent = .write .word 0x1FFC 5#32 ∧
    (facing (.write .word 0x1FFC 5#32) idleFull).busy = false ∧
    (facing (.write .word 0x1FFC 5#32) (flight 0#32)).busy = true ∧ 127 < wide.limbs := by decide
/-- The reserved offsets at their edges: `0x0014`, `0x0FFC`, limb `LIMBS` of `R[0]`, limb 127 of
`R[7]` on the smallest engine. -/
theorem witness_ReservedOffsets :
    (0x0014 ≤ 0x0014 ∧ 0x0014 ≤ 0x0FFC ∧ 0x0014 % 4 = 0) ∧ 0x0FFC % 4 = 0 ∧ small.limbs ≤ 2 ∧
    small.limbs ≤ 127 ∧ 0x1008 = 0x1000 + 0x200 * (0 : Reg).val + 4 * 2 ∧
    0x1FFC = 0x1000 + 0x200 * (7 : Reg).val + 4 * 127 := by decide
theorem witness_RegisterIsTheSumOfItsLimbs :
    small.Valid ∧ idleFull.Inv small ∧ idleFull.busy = false ∧ idleFull.reg 1 = 2 ^ 64 - 1 :=
  ⟨small_valid, idleFull_inv, rfl, by decide⟩
theorem witness_LoadSequence :
    small.Valid ∧ idleFull.Inv small ∧ idleFull.busy = false ∧ 2 ^ 64 - 1 < 2 ^ small.W :=
  ⟨small_valid, idleFull_inv, rfl, by decide⟩

/-- `irq` raised by a completion with `IE_DONE`. -/
theorem witness_InterruptLine :
    stepAt small { flight 0#32 with ieDone := true } =
      .next { flight 0#32 with ieDone := true }.finish ∧
    ({ flight 0#32 with ieDone := true } : State).irq = false ∧
    ({ flight 0#32 with ieDone := true } : State).finish.irq = true := ⟨rfl, by decide, by decide⟩

/-- The key and block of program P3 of 95_test_vectors.md: `p = 23, g = 2, x = 4, y = 19, m = 7`. -/
theorem witness_Cipher :
    Nat.Prime 23 ∧ 23 ≠ 2 ∧ 2 % 23 ≠ 0 ∧ 7 < 23 ∧ 16 = Arith.modexp 2 4 23 ∧
    3 = Arith.modexp 2 19 23 ∧ 15 = Arith.modmul 7 (Arith.modexp 16 19 23) 23 ∧
    12 = Arith.modexp 3 4 23 :=
  ⟨by norm_num, by decide, by decide, by decide, by decide, by decide, by decide, by decide⟩

end Sys2Proof.Tests
end

section
/-! The statements of 00_scope.md: the bit length by its two bounds (R14), and draws as free answers
(R17). -/

namespace Sys2Proof.Machine.Arith

theorem bitlen_le_iff {x k : Nat} : bitlen x ≤ k ↔ x < 2 ^ k := by
  unfold bitlen
  split
  next hx => simp [hx]
  next hx => rw [Nat.succ_le_iff, Nat.log2_lt hx]

theorem lt_bitlen_iff {x k : Nat} : k < bitlen x ↔ 2 ^ k ≤ x := by
  simpa using not_congr (bitlen_le_iff (x := x) (k := k))

theorem bitlen_eq_succ_iff {x k : Nat} : bitlen x = k + 1 ↔ 2 ^ k ≤ x ∧ x < 2 ^ (k + 1) := by
  rw [← lt_bitlen_iff, ← bitlen_le_iff]
  omega

/-- Settles O13: `bitlen x` is below exactly the powers that exceed `x`, so for `x ≥ 1` it is no 0 and
each `k + 1` is its value between `2 ^ k` and `2 ^ (k + 1)`. -/
theorem bitlenIsTheShortestBinaryForm : Obligations.BitlenIsTheShortestBinaryForm := by
  refine ⟨rfl, fun x k hx => ?_⟩
  cases k with
  | zero =>
    have hpos : 0 < bitlen x := lt_bitlen_iff.mpr hx
    omega
  | succ k => simp [bitlen_eq_succ_iff]

end Sys2Proof.Machine.Arith

namespace Sys2Proof.Machine

@[simp] theorem RandomSource.advance_offered (x : Nat) (rest : List Nat) (m : Nat) :
    RandomSource.advance { answers := x :: rest, drawn := m } = { answers := rest, drawn := m + 1 } :=
  rfl

/-- Settles O12: the source that offers `x` and then `y` answers both, whatever the two are. -/
theorem drawsAreFreeAndUnrelated : Obligations.DrawsAreFreeAndUnrelated := by
  refine ⟨RandomSource.draw_lt, fun k m x y hx hy => ⟨{ answers := [x, y], drawn := 0 }, ?_, ?_⟩⟩
  · exact RandomSource.draw_of_offered [y] 0 hx
  · rw [RandomSource.advance_offered]
    exact RandomSource.draw_of_offered [] 1 hy

end Sys2Proof.Machine
end

section
/-! What a command's completion is, by the fault table (60_exceptions.md R202): the fault entry, or one
explicit next state. The frame, the flags and the bounds of every command are read off it. -/

namespace Sys2Proof.Machine.Arith

theorem gcd_lt {a b B : Nat} (ha : a < B) (hb : b < B) : gcd a b < B := by
  rcases Nat.eq_zero_or_pos a with rfl | hpos
  · simpa [gcd] using hb
  · exact (Nat.gcd_le_left b hpos).trans_lt ha

theorem fermatPower_lt (s : Nat) {n : Nat} (h : n ≠ 0) : fermatPower s n < n := modexp_lt s _ h

/-- Writing limb `j` leaves the limbs above it (20_memory.md R59). -/
theorem setLimb_div (v j : Nat) (w : Word) :
    setLimb v j w / 2 ^ (32 * (j + 1)) = v / 2 ^ (32 * (j + 1)) := by
  have hlow : v % 2 ^ (32 * j) + w.toNat * 2 ^ (32 * j) < 2 ^ (32 * (j + 1)) := by
    have hmod : v % 2 ^ (32 * j) < 2 ^ (32 * j) := Nat.mod_lt _ (Nat.two_pow_pos _)
    have hw : w.toNat * 2 ^ (32 * j) + 2 ^ (32 * j) ≤ 2 ^ 32 * 2 ^ (32 * j) := by
      rw [← Nat.succ_mul]
      exact Nat.mul_le_mul_right _ w.isLt
    rw [Nat.mul_succ, Nat.add_comm, Nat.pow_add]
    omega
  rw [setLimb_eq, Nat.add_mul_div_right _ _ (Nat.two_pow_pos _), Nat.div_eq_of_lt hlow, Nat.zero_add]

theorem setLimb_lt {v j l : Nat} (w : Word) (hj : j < l) (hv : v < 2 ^ (32 * l)) :
    setLimb v j w < 2 ^ (32 * l) := by
  have hsplit : 2 ^ (32 * l) = 2 ^ (32 * (l - (j + 1))) * 2 ^ (32 * (j + 1)) := by
    rw [← Nat.pow_add]
    congr 1
    omega
  rw [hsplit, ← Nat.div_lt_iff_lt_mul (Nat.two_pow_pos _)] at hv ⊢
  rwa [setLimb_div]

end Sys2Proof.Machine.Arith

namespace Sys2Proof.Machine

theorem jresOf_ne (j : Int) : jresOf j ≠ 0b10#2 := by
  unfold jresOf
  split
  · decide
  · split <;> decide

theorem badModulus_eq_decide (n : Nat) : badModulus n = decide (n % 2 = 0) := by
  rw [badModulus, decide_eq_decide]
  omega

/-- The fault entry on one record (60_exceptions.md R204). -/
theorem takeFault_eq_faulted (s : State) (e : FaultCode) : s.takeFault e = s.faulted e.code := rfl

/-- The value a command without fault writes to its destination; 0 for NOP and PTEST, which write
none. -/
def value (i : Instr) (s : State) : Nat :=
  match i with
  | .nop => 0
  | .sample _ rmin rmax =>
    Arith.sample (s.reg rmin) (s.reg rmax) (s.source.draw (Arith.drawBits (s.reg rmax)))
  | .jacobi _ ra rn => Arith.symbolMod (Arith.jacobi (s.reg ra) (s.reg rn)) (s.reg rn)
  | .gcd _ ra rb => Arith.gcd (s.reg ra) (s.reg rb)
  | .modexp _ ra re rn => Arith.modexp (s.reg ra) (s.reg re) (s.reg rn)
  | .modmul _ ra rb rn => Arith.modmul (s.reg ra) (s.reg rb) (s.reg rn)
  | .modinv _ rs rn => Arith.fermatPower (s.reg rs) (s.reg rn)
  | .ptest _ _ => 0

/-- The next state of a command that completes without fault (20_memory.md R68). -/
def completed (i : Instr) (s : State) : State :=
  match i with
  | .nop => s.finish
  | .sample rd _ _ => (s.completeValue rd (value i s)).setSource s.source.advance
  | .jacobi rd ra rn =>
    (s.completeValue rd (value i s)).setJres (Arith.jacobi (s.reg ra) (s.reg rn))
  | .gcd rd _ _ => s.completeValue rd (value i s)
  | .modexp rd _ _ _ => s.completeValue rd (value i s)
  | .modmul rd _ _ _ => s.completeValue rd (value i s)
  | .modinv rd _ _ => s.completeValue rd (value i s)
  | .ptest rn conf =>
    ((s.setPrime (ptestRounds (s.reg rn) conf s.source).1).setSource
      (ptestRounds (s.reg rn) conf s.source).2).finish

/-- The modulus check of JACOBI, MODEXP and MODMUL against their rows of the fault table. -/
theorem modulus_check_eq (n : Nat) (s t : State) :
    (if badModulus n then .next (s.takeFault .modulus) else .next t : Result) =
      .next (if (if n % 2 = 0 then 2 else 0 : BitVec 4) = 0 then t
        else s.faulted (if n % 2 = 0 then 2 else 0)) := by
  by_cases h : n % 2 = 0 <;> simp [badModulus_eq_decide, takeFault_eq_faulted, FaultCode.code, h]

/-- The two checks of MODINV and PTEST, in the order of 60_exceptions.md R206, against their rows. -/
theorem modulus_range_check_eq (n : Nat) (s t : State) :
    (if badModulus n then .next (s.takeFault .modulus)
      else if n = 1 then .next (s.takeFault .range) else .next t : Result) =
      .next (if (if n % 2 = 0 then 2 else if n = 1 then 3 else 0 : BitVec 4) = 0 then t
        else s.faulted (if n % 2 = 0 then 2 else if n = 1 then 3 else 0)) := by
  by_cases h : n % 2 = 0
  · simp [badModulus_eq_decide, takeFault_eq_faulted, FaultCode.code, h]
  · by_cases h1 : n = 1 <;> simp [badModulus_eq_decide, takeFault_eq_faulted, FaultCode.code, h, h1]

/-- `exec`, said once: the fault of the table or the completion (60_exceptions.md R202, R204). -/
theorem exec_eq (i : Instr) (s : State) :
    exec i s =
      .next (if faultOn i s = 0 then completed i s else s.faulted (faultOn i s)) := by
  cases i with
  | nop => rfl
  | gcd rd ra rb => rfl
  | sample rd rmin rmax =>
    by_cases h : s.reg rmax < s.reg rmin <;>
      simp [exec, execSample, faultOn, completed, value, takeFault_eq_faulted, FaultCode.code, h]
  | jacobi rd ra rn => exact modulus_check_eq ..
  | modexp rd ra re rn => exact modulus_check_eq ..
  | modmul rd ra rb rn => exact modulus_check_eq ..
  | modinv rd rs rn => exact modulus_range_check_eq ..
  | ptest rn conf => exact modulus_range_check_eq ..

theorem exec_of_fault {i : Instr} {s : State} (h : faultOn i s ≠ 0) :
    exec i s = .next (s.faulted (faultOn i s)) := by
  rw [exec_eq, if_neg h]

theorem exec_of_no_fault {i : Instr} {s : State} (h : faultOn i s = 0) :
    exec i s = .next (completed i s) := by
  rw [exec_eq, if_pos h]

/-- The inversion of `exec`. -/
theorem eq_of_exec {i : Instr} {s t : State} (h : exec i s = .next t) :
    (faultOn i s = 0 ∧ t = completed i s) ∨ (faultOn i s ≠ 0 ∧ t = s.faulted (faultOn i s)) := by
  by_cases hf : faultOn i s = 0
  · rw [exec_of_no_fault hf] at h
    exact .inl ⟨hf, (Host.Outcome.next.inj h).symm⟩
  · rw [exec_of_fault hf] at h
    exact .inr ⟨hf, (Host.Outcome.next.inj h).symm⟩

/-! The completion, field by field. -/

theorem completed_reg (i : Instr) (s : State) (k : Reg) :
    (completed i s).reg k = if i.dest = some k then value i s else s.reg k := by
  cases i <;> simp [completed, Instr.dest, eq_comm]

theorem completed_value_flags (i : Instr) (s : State) :
    (completed i s).z = (if i.dest = none then s.z else decide (value i s = 0)) ∧
      (completed i s).one = (if i.dest = none then s.one else decide (value i s = 1)) := by
  cases i <;> exact ⟨rfl, rfl⟩

theorem completed_jres_of_ne_jacobi {i : Instr} (s : State) (h : ∀ rd ra rn, i ≠ .jacobi rd ra rn) :
    (completed i s).jres = s.jres := by
  cases i with
  | jacobi rd ra rn => exact absurd rfl (h rd ra rn)
  | _ => rfl

theorem completed_prime_of_ne_ptest {i : Instr} (s : State) (h : ∀ rn conf, i ≠ .ptest rn conf) :
    (completed i s).prime = s.prime := by
  cases i with
  | ptest rn conf => exact absurd rfl (h rn conf)
  | _ => rfl

theorem completed_source_of_no_draw {i : Instr} (s : State) (hs : ∀ rd a b, i ≠ .sample rd a b)
    (hp : ∀ rn conf, i ≠ .ptest rn conf) : (completed i s).source = s.source := by
  cases i with
  | sample rd a b => exact absurd rfl (hs rd a b)
  | ptest rn conf => exact absurd rfl (hp rn conf)
  | _ => rfl

theorem completed_jres_ne (i : Instr) {s : State} (h : s.jres ≠ 0b10#2) :
    (completed i s).jres ≠ 0b10#2 := by
  cases i with
  | jacobi rd ra rn => exact jresOf_ne _
  | _ => exact h

theorem completes_completed (i : Instr) (s : State) : Completes s (completed i s) := by
  cases i with
  | nop => exact .finish s
  | sample rd rmin rmax => exact .valueDrawn ..
  | jacobi rd ra rn => exact .symbol ..
  | ptest rn conf => exact .verdict ..
  | _ => exact .value ..

/-! Bounds of the result, and the two statements about every command. -/

/-- 44_modexp.md R148: the result is below every bound of the registers. -/
theorem value_lt {i : Instr} {s : State} {B : Nat} (hf : faultOn i s = 0)
    (h : ∀ k : Reg, s.reg k < B) : value i s < B := by
  have hodd {rn : Reg} (h0 : (if s.reg rn % 2 = 0 then 2 else 0 : BitVec 4) = 0) : s.reg rn ≠ 0 := by
    intro hz
    simp [hz] at h0
  cases i with
  | nop => exact Nat.zero_lt_of_lt (h 0)
  | ptest rn conf => exact Nat.zero_lt_of_lt (h 0)
  | sample rd rmin rmax =>
    have hle : s.reg rmin ≤ s.reg rmax := by
      by_contra hlt
      simp [faultOn, Nat.lt_of_not_le hlt] at hf
    exact (Arith.sample_le hle _).trans_lt (h rmax)
  | gcd rd ra rb => exact Arith.gcd_lt (h ra) (h rb)
  | jacobi rd ra rn => exact (Arith.symbolMod_lt _ (hodd hf)).trans (h rn)
  | modexp rd ra re rn => exact (Arith.modexp_lt _ _ (hodd hf)).trans (h rn)
  | modmul rd ra rb rn => exact (Arith.modmul_lt _ _ (hodd hf)).trans (h rn)
  | modinv rd rs rn =>
    have hn : s.reg rn ≠ 0 := by
      intro hz
      simp [faultOn, hz] at hf
    exact (Arith.fermatPower_lt _ hn).trans (h rn)

theorem exec_reg_lt {i : Instr} {s t : State} {B : Nat} (hx : exec i s = .next t)
    (h : ∀ k : Reg, s.reg k < B) (k : Reg) : t.reg k < B := by
  rcases eq_of_exec hx with ⟨hf, rfl⟩ | ⟨-, rfl⟩
  · rw [completed_reg]
    split
    · exact value_lt hf h
    · exact h k
  · exact h k

theorem exec_jres_ne {i : Instr} {s t : State} (hx : exec i s = .next t) (h : s.jres ≠ 0b10#2) :
    t.jres ≠ 0b10#2 := by
  rcases eq_of_exec hx with ⟨-, rfl⟩ | ⟨-, rfl⟩
  · exact completed_jres_ne i h
  · exact h

/-- Settles O27: a completion is `completed`, whose fields are known, and the fault entry writes `ERR`,
`BUSY` and `DONE` only. -/
theorem commandFrame : Obligations.CommandFrame := by
  intro i s t h
  rcases eq_of_exec h with ⟨hf, rfl⟩ | ⟨-, rfl⟩
  · have hc := completes_completed i s
    have hflags := completed_value_flags i s
    refine ⟨fun k hk => ?_, fun hd => ?_, fun hj => ?_, fun hp => ?_, fun hn => ?_, hc.haz,
      hc.ieDone, hc.ieErr, hc.cur, hc.agenda, hc.replies⟩
    · rw [completed_reg, if_neg (hk.resolve_right (absurd hf))]
    · simpa [hd.resolve_right (absurd hf)] using hflags
    · exact completed_jres_of_ne_jacobi s (hj.resolve_right (absurd hf))
    · exact completed_prime_of_ne_ptest s (hp.resolve_right (absurd hf))
    · obtain ⟨hs, hp⟩ := hn.resolve_right (absurd hf)
      exact completed_source_of_no_draw s hs hp
  · refine ⟨fun _ _ => rfl, fun _ => ⟨rfl, rfl⟩, fun _ => rfl, fun _ => rfl, fun _ => rfl, rfl, rfl,
      rfl, rfl, rfl, rfl⟩

/-- Settles O28: the value written is the one the flags are computed from; that they are kept
otherwise is part of the frame. -/
theorem valueFlagsDescribeTheDestination : Obligations.ValueFlagsDescribeTheDestination := by
  refine ⟨fun i rd s t hd hf h => ?_, fun i s t hd h => ?_, rfl, rfl⟩
  · obtain ⟨-, rfl⟩ | ⟨hne, -⟩ := eq_of_exec h
    · obtain ⟨hz, hone⟩ := completed_value_flags i s
      simp [hz, hone, completed_reg, hd]
    · exact absurd hf hne
  · obtain ⟨-, hflags, -⟩ := commandFrame i s t h
    exact hflags hd

end Sys2Proof.Machine
end

section
/-! What a step is, event by event: an equation for the engine's turn, reset, a read and a write of a
word, and one for each named register of the block (20_memory.md R51). -/

namespace Sys2Proof.Machine

section
variable (c : Config.Params) {s : State}

theorem stepAt_engine (he : s.nextEvent = .engine) : stepAt c s = engineTurn s.rest := by
  rw [stepAt, he]
  rfl

theorem stepAt_reset (he : s.nextEvent = .reset) : stepAt c s = .next s.rest.resetEngine := by
  rw [stepAt, he]
  rfl

theorem stepAt_read {off : Nat} (he : s.nextEvent = .read .word off) (ho : off ≤ 0x1FFF)
    (ha : off % 4 = 0) :
    stepAt c s = .next ((hostRead c off s.rest).2.reply (hostRead c off s.rest).1) := by
  rw [stepAt, he]
  simp only [runEvent, readStep, (accessFault_none_iff _ _).mpr ⟨rfl, ho, ha⟩]

theorem stepAt_write {off : Nat} {v : Word} (he : s.nextEvent = .write .word off v)
    (ho : off ≤ 0x1FFF) (ha : off % 4 = 0) : stepAt c s = .next (hostWrite c off v s.rest) := by
  rw [stepAt, he]
  simp only [runEvent, writeStep, (accessFault_none_iff _ _).mpr ⟨rfl, ho, ha⟩]

theorem stepAt_readId (he : s.nextEvent = .read .word 0x0000) :
    stepAt c s = .next (s.rest.reply idWord) := stepAt_read c he (by decide) (by decide)

theorem stepAt_readCfg (he : s.nextEvent = .read .word 0x0004) :
    stepAt c s = .next (s.rest.reply (cfgWord c)) := stepAt_read c he (by decide) (by decide)

theorem stepAt_readCtrl (he : s.nextEvent = .read .word 0x0008) :
    stepAt c s = .next (s.rest.reply s.ctrlWord) := stepAt_read c he (by decide) (by decide)

theorem stepAt_readStatus (he : s.nextEvent = .read .word 0x000C) :
    stepAt c s = .next (s.rest.reply s.statusWord) := stepAt_read c he (by decide) (by decide)

theorem stepAt_readCmd (he : s.nextEvent = .read .word 0x0010) :
    stepAt c s = .next (s.rest.reply s.cur) := stepAt_read c he (by decide) (by decide)

theorem stepAt_writeId {v : Word} (he : s.nextEvent = .write .word 0x0000 v) :
    stepAt c s = .next s.rest := stepAt_write c he (by decide) (by decide)

theorem stepAt_writeCfg {v : Word} (he : s.nextEvent = .write .word 0x0004 v) :
    stepAt c s = .next s.rest := stepAt_write c he (by decide) (by decide)

theorem stepAt_writeCtrl {v : Word} (he : s.nextEvent = .write .word 0x0008 v) :
    stepAt c s = .next (s.rest.writeCtrl v) := stepAt_write c he (by decide) (by decide)

theorem stepAt_writeStatus {v : Word} (he : s.nextEvent = .write .word 0x000C v) :
    stepAt c s = .next (s.rest.writeStatus v) := stepAt_write c he (by decide) (by decide)

theorem stepAt_writeCmd {w : Word} (he : s.nextEvent = .write .word 0x0010 w) :
    stepAt c s = .next (s.rest.offer w) := stepAt_write c he (by decide) (by decide)

theorem stepAt_accept {w : Word} (he : s.nextEvent = .write .word 0x0010 w) (hb : s.busy = false)
    (h0 : s.err = 0#4) : stepAt c s = .next (s.rest.accept w) := by
  rw [stepAt_writeCmd c he]
  simp [State.offer, hb, h0]

/-- With a command in flight the engine's turn completes it (20_memory.md R68). -/
theorem stepAt_completes {t : State} (he : s.nextEvent = .engine) (hb : s.busy = true)
    (h : stepAt c s = .next t) : t.busy = false ∧ t.done = true := by
  rw [stepAt_engine c he] at h
  rcases engineTurn_cases s.rest with ⟨hidle, -⟩ | ⟨-, e, h'⟩ | ⟨-, i, u, -, -, h', hc⟩
  · exact absurd (hb.symm.trans hidle) nofun
  · cases h.symm.trans h'
    exact ⟨rfl, rfl⟩
  · cases h.symm.trans h'
    exact ⟨hc.busy, hc.done⟩

end

/-! A host write of `STATUS`, field by field (10_state.md R33). -/

section
variable (v : Word) (s : State)

@[simp] theorem writeStatus_reg (k : Reg) : (s.writeStatus v).reg k = s.reg k := rfl
@[simp] theorem writeStatus_ieDone : (s.writeStatus v).ieDone = s.ieDone := rfl
@[simp] theorem writeStatus_ieErr : (s.writeStatus v).ieErr = s.ieErr := rfl
@[simp] theorem writeStatus_busy : (s.writeStatus v).busy = s.busy := rfl
@[simp] theorem writeStatus_done : (s.writeStatus v).done = (s.done && !v.getLsbD 1) := rfl
@[simp] theorem writeStatus_haz : (s.writeStatus v).haz = (s.haz && !v.getLsbD 2) := rfl
@[simp] theorem writeStatus_err : (s.writeStatus v).err = if v.getLsbD 3 then 0 else s.err := rfl
@[simp] theorem writeStatus_jres : (s.writeStatus v).jres = s.jres := rfl

end

end Sys2Proof.Machine
end

section
/-! The invariant: each update of the state keeps it, and so does every step (10_state.md R21, R35, R37,
R38). -/

namespace Sys2Proof.Machine

namespace State.Inv

variable {c : Config.Params} {s : State}

theorem reset (c : Config.Params) : State.reset.Inv c where
  regs_lt i := by simp
  err_le := by decide
  jres_ne := by decide
  in_flight := nofun

theorem resetEngine (c : Config.Params) (s : State) : s.resetEngine.Inv c where
  regs_lt i := by simp
  err_le := by simp
  jres_ne := by simp
  in_flight := nofun

theorem rest (h : s.Inv c) : s.rest.Inv c := ⟨h.regs_lt, h.err_le, h.jres_ne, h.in_flight⟩

theorem reply (h : s.Inv c) (w : Word) : (s.reply w).Inv c :=
  ⟨h.regs_lt, h.err_le, h.jres_ne, h.in_flight⟩

theorem markHaz (h : s.Inv c) : s.markHaz.Inv c := ⟨h.regs_lt, h.err_le, h.jres_ne, h.in_flight⟩

theorem writeCtrl (h : s.Inv c) (v : Word) : (s.writeCtrl v).Inv c :=
  ⟨h.regs_lt, h.err_le, h.jres_ne, h.in_flight⟩

theorem takeFault (h : s.Inv c) (e : FaultCode) : (s.takeFault e).Inv c where
  regs_lt := h.regs_lt
  err_le := by
    rw [takeFault_err]
    cases e <;> decide
  jres_ne := h.jres_ne
  in_flight := nofun

theorem accept (h : s.Inv c) (h0 : s.err = 0#4) (w : Word) : (s.accept w).Inv c where
  regs_lt := h.regs_lt
  err_le := h.err_le
  jres_ne := h.jres_ne
  in_flight _ := ⟨rfl, h0⟩

theorem writeStatus (h : s.Inv c) (v : Word) : (s.writeStatus v).Inv c where
  regs_lt := h.regs_lt
  err_le := by
    rw [writeStatus_err]
    split
    · decide
    · exact h.err_le
  jres_ne := h.jres_ne
  in_flight hb := by
    obtain ⟨hd, he⟩ := h.in_flight hb
    simp [hd, he]

theorem setReg (h : s.Inv c) (i : Reg) {v : Nat} (hv : v < 2 ^ c.W) : (s.setReg i v).Inv c where
  regs_lt k := by
    rw [setReg_reg]
    split
    · exact hv
    · exact h.regs_lt k
  err_le := h.err_le
  jres_ne := h.jres_ne
  in_flight := h.in_flight

theorem complete {i : Instr} {t : State} (h : s.Inv c) (hx : exec i s = .next t)
    (hc : Completes s t) : t.Inv c where
  regs_lt := exec_reg_lt hx h.regs_lt
  err_le := hc.err ▸ h.err_le
  jres_ne := exec_jres_ne hx h.jres_ne
  in_flight hb := absurd (hb.symm.trans hc.busy) nofun

end State.Inv

/-- Settles O30: a step is one of the updates above, each of which keeps the invariant. -/
theorem stepKeepsTheInvariant : Obligations.StepKeepsTheInvariant := by
  intro c s t hs h
  have hrest := hs.rest
  cases stepTo_of_stepAt h with
  | idle _ _ => exact hrest
  | fault _ _ e => exact hrest.takeFault e
  | complete _ _ _ hx hc => exact hrest.complete hx hc
  | reset _ => exact .resetEngine c _
  | read _ w _ => exact hrest.reply w
  | readRefused _ _ _ => exact hrest.markHaz.reply 0
  | ignored _ _ => exact hrest
  | ctrl _ => exact hrest.writeCtrl _
  | status _ => exact hrest.writeStatus _
  | accept _ _ h0 => exact hrest.accept h0 _
  | refuse _ _ => exact hrest.markHaz
  | writeRefused _ _ _ => exact hrest.markHaz
  | limb _ _ hj => exact hrest.setReg _ (Arith.setLimb_lt _ hj (hs.regs_lt _))

/-- Settles O31: all registers and codes are 0, and no command is in flight. -/
theorem resetHasTheInvariant : Obligations.ResetHasTheInvariant := State.Inv.reset

end Sys2Proof.Machine
end

section
/-! The status bits: which steps write `BUSY`, `DONE`, `HAZ` and `ERR`, and the interrupt line
(10_state.md R34 to R37, R43). A case left to `simp_all` keeps the bit, or writes it the other way. -/

namespace Sys2Proof.Machine

section
variable {c : Config.Params} {s t : State}

theorem busy_rises_in_acceptance (h : StepTo c s t) (hs : s.busy = false) (ht : t.busy = true) :
    ∃ w, s.nextEvent = .write .word 0x0010 w ∧ s.err = 0#4 := by
  cases h with
  | accept he _ h0 => exact ⟨_, he, h0⟩
  | _ => simp_all

theorem busy_falls_in_completion_or_reset (h : StepTo c s t) (hs : s.busy = true)
    (ht : t.busy = false) : s.nextEvent = .engine ∨ s.nextEvent = .reset := by
  cases h with
  | fault he _ _ => exact .inl he
  | complete he _ _ _ _ => exact .inl he
  | reset he => exact .inr he
  | _ => simp_all

theorem done_rises_in_completion (h : StepTo c s t) (hs : s.done = false) (ht : t.done = true) :
    s.nextEvent = .engine ∧ s.busy = true := by
  cases h with
  | fault he hb _ => exact ⟨he, hb⟩
  | complete he hb _ _ _ => exact ⟨he, hb⟩
  | _ => simp_all

theorem done_falls (h : StepTo c s t) (hs : s.done = true) (ht : t.done = false) :
    s.nextEvent = .reset ∨
      (∃ v, s.nextEvent = .write .word 0x000C v ∧ v.getLsbD 1 = true) ∨
      (∃ w, s.nextEvent = .write .word 0x0010 w ∧ s.busy = false ∧ s.err = 0#4) := by
  cases h with
  | reset he => exact .inl he
  | status he => exact .inr (.inl ⟨_, he, by simpa [hs] using ht⟩)
  | accept he hb h0 => exact .inr (.inr ⟨_, he, hb, h0⟩)
  | complete _ _ _ _ hc => exact absurd (hc.done.symm.trans ht) nofun
  | _ => simp_all

theorem hostRead_of_refused {size : AccessSize} {off : Nat} (h : Refuses c (.read size off) s) :
    hostRead c off s = (0, s.markHaz) := by
  obtain ⟨hb, i, j, ht⟩ := h
  simp [hostRead, ht, hb]

theorem hostWrite_of_refused {size : AccessSize} {off : Nat} {v : Word}
    (h : Refuses c (.write size off v) s) : hostWrite c off v s = s.markHaz := by
  obtain ⟨hb, i, j, ht⟩ | ⟨ht, hcause⟩ := h
  · simp [hostWrite, ht, hb]
  · simp [hostWrite, ht, State.offer, hcause]

theorem haz_of_refused (h : stepAt c s = .next t) (hr : Refuses c s.nextEvent s) :
    t.haz = true := by
  rcases runEvent_next_cases h with ⟨he, -⟩ | ⟨he, -⟩ | ⟨off, he, -, -, rfl⟩ |
    ⟨off, v, he, -, -, rfl⟩ <;> rw [he] at hr
  · exact hr.elim
  · exact hr.elim
  · rw [hostRead_of_refused (s := s.rest) (size := .word) hr]
    rfl
  · rw [hostWrite_of_refused (s := s.rest) (size := .word) hr]
    rfl

theorem haz_rises_in_refusal (h : StepTo c s t) (hs : s.haz = false) (ht : t.haz = true) :
    Refuses c s.nextEvent s := by
  cases h with
  | readRefused he hb hl => simpa only [Refuses, he] using ⟨hb, _, _, hl⟩
  | refuse he hr => simpa only [Refuses, he] using .inr ⟨rfl, hr⟩
  | writeRefused he hb hl => simpa only [Refuses, he] using .inl ⟨hb, _, _, hl⟩
  | complete _ _ _ _ hc => simp [hc.haz, hs] at ht
  | _ => simp_all

theorem haz_falls (h : StepTo c s t) (hs : s.haz = true) (ht : t.haz = false) :
    s.nextEvent = .reset ∨ ∃ v, s.nextEvent = .write .word 0x000C v ∧ v.getLsbD 2 = true := by
  cases h with
  | reset he => exact .inl he
  | status he => exact .inr ⟨_, he, by simpa [hs] using ht⟩
  | complete _ _ _ _ hc => simp [hc.haz, hs] at ht
  | _ => simp_all

theorem err_rises_in_fault (h : StepTo c s t) (hs : s.err = 0#4) (ht : t.err ≠ 0#4) :
    s.nextEvent = .engine ∧ s.busy = true ∧ t = s.rest.faulted t.err := by
  cases h with
  | fault he hb e => exact ⟨he, hb, rfl⟩
  | complete _ _ _ _ hc => exact absurd (hc.err.trans hs) ht
  | _ => simp_all

/-- A fault needs a command in flight, and none is in flight while `ERR ≠ 0`. -/
theorem err_kept_or_cleared (h : StepTo c s t) (hi : s.Inv c) (hs : s.err ≠ 0#4) :
    t.err = s.err ∨
      (t.err = 0#4 ∧
        (s.nextEvent = .reset ∨
          ∃ v, s.nextEvent = .write .word 0x000C v ∧ v.getLsbD 3 = true)) := by
  cases h with
  | fault _ hb _ => exact absurd (hi.in_flight hb).2 hs
  | complete _ _ _ _ hc => exact .inl hc.err
  | reset he => exact .inr ⟨rfl, .inl he⟩
  | @status v he =>
    cases hv : v.getLsbD 3 with
    | false => exact .inl (if_neg (Bool.eq_false_iff.mp hv))
    | true => exact .inr ⟨if_pos hv, .inr ⟨v, he, hv⟩⟩
  | _ => exact .inl rfl

theorem irq_iff (s : State) :
    s.irq = true ↔ (s.ieDone = true ∧ s.done = true) ∨ (s.ieErr = true ∧ s.err ≠ 0#4) := by
  simp [State.irq]

theorem irq_changes (h : StepTo c s t) (hne : t.irq ≠ s.irq) :
    (s.nextEvent = .engine ∧ s.busy = true) ∨ s.nextEvent = .reset ∨
      ∃ off v, s.nextEvent = .write .word off v := by
  cases h with
  | idle _ _ => exact absurd rfl hne
  | read _ _ _ => exact absurd rfl hne
  | readRefused _ _ _ => exact absurd rfl hne
  | fault he hb _ => exact .inl ⟨he, hb⟩
  | complete he hb _ _ _ => exact .inl ⟨he, hb⟩
  | reset he => exact .inr (.inl he)
  | ignored he _ => exact .inr (.inr ⟨_, _, he⟩)
  | ctrl he => exact .inr (.inr ⟨_, _, he⟩)
  | status he => exact .inr (.inr ⟨_, _, he⟩)
  | accept he _ _ => exact .inr (.inr ⟨_, _, he⟩)
  | refuse he _ => exact .inr (.inr ⟨_, _, he⟩)
  | writeRefused he _ _ => exact .inr (.inr ⟨_, _, he⟩)
  | limb he _ _ => exact .inr (.inr ⟨_, _, he⟩)

theorem eq_of_setReg_reg_ne {i k : Reg} {v : Nat} (h : (s.setReg i v).reg k ≠ s.reg k) : k = i := by
  by_contra hne
  exact h (State.setReg_reg_of_ne s v hne)

/-- A command changes its destination, and that only when it does not fault. -/
theorem exec_changes_dest {i : Instr} {k : Reg} (hx : exec i s = .next t)
    (hne : t.reg k ≠ s.reg k) : i.dest = some k ∧ faultOn i s = 0 := by
  obtain ⟨hframe, -⟩ := commandFrame i s t hx
  by_contra hnot
  exact hne (hframe k (not_and_or.mp hnot))

theorem faultOn_rest (i : Instr) (s : State) : faultOn i s.rest = faultOn i s := by
  cases i <;> rfl

end

/-- Settles O36: the step cases give the two causes; conversely an offer to an idle engine with
`ERR = 0` is accepted, and a turn or reset ends the flight. -/
theorem busyFollowsTheCommandInFlight : Obligations.BusyFollowsTheCommandInFlight := by
  intro c s t h
  have hstep := stepTo_of_stepAt h
  refine ⟨fun hb => ⟨busy_rises_in_acceptance hstep hb, ?_⟩,
    fun hb => ⟨busy_falls_in_completion_or_reset hstep hb, ?_⟩⟩
  · rintro ⟨w, he, h0⟩
    cases h.symm.trans (stepAt_accept c he hb h0)
    rfl
  · rintro (he | he)
    · exact (stepAt_completes c he hb h).1
    · cases h.symm.trans (stepAt_reset c he)
      rfl

/-- Settles O37: the step cases give the causes; conversely a completion, a `STATUS` write, acceptance
and reset write `DONE` as stated. -/
theorem doneIsSetByCompletionsOnly : Obligations.DoneIsSetByCompletionsOnly := by
  intro c s t h
  have hstep := stepTo_of_stepAt h
  refine ⟨fun he hb => (stepAt_completes c he hb h).2, done_rises_in_completion hstep,
    fun hd => ⟨done_falls hstep hd, ?_⟩⟩
  rintro (he | ⟨v, he, hv⟩ | ⟨w, he, hb, h0⟩)
  · cases h.symm.trans (stepAt_reset c he)
    rfl
  · cases h.symm.trans (stepAt_writeStatus c he)
    simp [hv]
  · cases h.symm.trans (stepAt_accept c he hb h0)
    rfl

/-- Settles O38: a refused access is `markHaz`; the step cases give the causes of a rise and a fall. -/
theorem hazMarksRefusedAccesses : Obligations.HazMarksRefusedAccesses := by
  intro c s t h
  have hstep := stepTo_of_stepAt h
  refine ⟨haz_of_refused h, haz_rises_in_refusal hstep, fun hz => ⟨haz_falls hstep hz, ?_⟩⟩
  rintro (he | ⟨v, he, hv⟩)
  · cases h.symm.trans (stepAt_reset c he)
    rfl
  · cases h.symm.trans (stepAt_writeStatus c he)
    simp [hv]

/-- Settles O42: without a command in flight there is no fault, and with one `ERR` is 0. -/
theorem errIsStickyUntilCleared : Obligations.ErrIsStickyUntilCleared := by
  intro c s t hi h
  exact ⟨err_rises_in_fault (stepTo_of_stepAt h), err_kept_or_cleared (stepTo_of_stepAt h) hi⟩

/-- Settles O53: `irq` is a function of four fields, none of which a read or an idle turn writes. -/
theorem interruptLine : Obligations.InterruptLine :=
  ⟨irq_iff, fun _ _ _ h => irq_changes (stepTo_of_stepAt h)⟩

/-- Settles O44: three kinds of step write a register, and a command writes its destination only. -/
theorem registersChangeOnlyByTheirWriters : Obligations.RegistersChangeOnlyByTheirWriters := by
  intro c s t k h hne
  cases stepTo_of_stepAt h with
  | reset he => exact .inl he
  | limb he hb hj =>
    obtain rfl := eq_of_setReg_reg_ne hne
    exact .inr (.inl ⟨hb, _, _, hj, he⟩)
  | complete he hb hd hx _ =>
    obtain ⟨hdest, hf⟩ := exec_changes_dest hx hne
    exact .inr (.inr ⟨hb, he, _, hd, hdest, faultOn_rest _ s ▸ hf⟩)
  | _ => exact absurd rfl hne

end Sys2Proof.Machine
end

section
/-! `HAZ` is inert (10_state.md R36): every operation of a step commutes with overwriting `HAZ`, but
for the word that a read of `STATUS` returns. -/

namespace Sys2Proof.Machine

/-- The same state with another `HAZ`. -/
def State.withHaz (b : Bool) (s : State) : State := { s with haz := b }

section
variable (b : Bool) (s : State)

@[simp] theorem withHaz_busy : (s.withHaz b).busy = s.busy := rfl
@[simp] theorem withHaz_err : (s.withHaz b).err = s.err := rfl
@[simp] theorem withHaz_cur : (s.withHaz b).cur = s.cur := rfl
@[simp] theorem withHaz_reg (k : Reg) : (s.withHaz b).reg k = s.reg k := rfl

theorem faultOn_withHaz (i : Instr) : faultOn i (s.withHaz b) = faultOn i s := by
  cases i <;> rfl

theorem completed_withHaz (i : Instr) :
    completed i (s.withHaz b) = (completed i s).withHaz b := by
  cases i <;> rfl

end

section
variable {s t : State}

theorem exec_withHaz {i : Instr} (b : Bool) (h : exec i s = .next t) :
    exec i (s.withHaz b) = .next (t.withHaz b) := by
  rw [exec_eq, faultOn_withHaz]
  rcases eq_of_exec h with ⟨hf, rfl⟩ | ⟨hf, rfl⟩
  · rw [if_pos hf, completed_withHaz]
  · rw [if_neg hf]
    rfl

theorem engineTurn_withHaz (b : Bool) (h : engineTurn s = .next t) :
    engineTurn (s.withHaz b) = .next (t.withHaz b) := by
  unfold engineTurn at h ⊢
  rw [withHaz_busy, withHaz_cur]
  cases hb : s.busy with
  | false =>
    obtain rfl : s = t := by simpa [hb] using h
    rfl
  | true =>
    cases hd : decode s.cur with
    | error e =>
      obtain rfl : s.takeFault .illegal = t := by simpa [hb, hd] using h
      rfl
    | ok i => exact exec_withHaz b (by simpa [hb, hd] using h)

theorem hostWrite_withHaz (c : Config.Params) (off : Nat) (v : Word) (s : State) (b : Bool) :
    ∃ b', hostWrite c off v (s.withHaz b) = (hostWrite c off v s).withHaz b' := by
  unfold hostWrite
  cases busTarget c off with
  | status => exact ⟨b && !v.getLsbD 2, rfl⟩
  | cmd =>
    obtain hr | hr := Bool.eq_false_or_eq_true (s.busy || s.err != 0)
    · exact ⟨true, by simp only [State.offer, withHaz_busy, withHaz_err, hr, if_true]; rfl⟩
    · exact ⟨b, by simp only [State.offer, withHaz_busy, withHaz_err, hr, Bool.false_eq_true,
        if_false]; rfl⟩
  | limb i j =>
    obtain hb | hb := Bool.eq_false_or_eq_true s.busy
    · exact ⟨true, by simp only [withHaz_busy, hb, if_true]; rfl⟩
    · exact ⟨b, by simp only [withHaz_busy, hb, Bool.false_eq_true, if_false]; rfl⟩
  | _ => exact ⟨b, rfl⟩

theorem hostRead_withHaz {c : Config.Params} {off : Nat} (s : State) (b : Bool)
    (hoff : busTarget c off ≠ .status) :
    ∃ b', hostRead c off (s.withHaz b) = ((hostRead c off s).1, (hostRead c off s).2.withHaz b') := by
  unfold hostRead
  cases h : busTarget c off with
  | status => exact absurd h hoff
  | limb i j =>
    obtain hb | hb := Bool.eq_false_or_eq_true s.busy
    · exact ⟨true, by simp only [withHaz_busy, hb, if_true]; rfl⟩
    · exact ⟨b, by simp only [withHaz_busy, hb, Bool.false_eq_true, if_false]; rfl⟩
  | _ => exact ⟨b, rfl⟩

/-- Any step but a read of `STATUS` commutes with overwriting `HAZ`. -/
theorem stepAt_withHaz {c : Config.Params} (b : Bool) (hread : s.nextEvent ≠ .read .word 0x000C)
    (h : stepAt c s = .next t) : ∃ b', stepAt c (s.withHaz b) = .next (t.withHaz b') := by
  rcases runEvent_next_cases h with ⟨he, hx⟩ | ⟨he, rfl⟩ | ⟨off, he, ho, ha, rfl⟩ |
    ⟨off, v, he, ho, ha, rfl⟩
  · exact ⟨b, (stepAt_engine c (s := s.withHaz b) he).trans (engineTurn_withHaz b hx)⟩
  · exact ⟨false, stepAt_reset c (s := s.withHaz b) he⟩
  · have hoff : busTarget c off ≠ .status := by
      obtain ⟨-, -, -, hstatus, -⟩ := busTarget_eq_register (c := c) (off := off)
      rintro htarget
      exact hread (hstatus.mp htarget ▸ he)
    obtain ⟨b', hb'⟩ := hostRead_withHaz s.rest b hoff
    refine ⟨b', (stepAt_read c (s := s.withHaz b) he ho ha).trans ?_⟩
    change Host.Outcome.next ((hostRead c off (s.rest.withHaz b)).2.reply
      (hostRead c off (s.rest.withHaz b)).1) = _
    rw [hb']
    rfl
  · obtain ⟨b', hb'⟩ := hostWrite_withHaz c off v s.rest b
    exact ⟨b', (stepAt_write c (s := s.withHaz b) he ho ha).trans (congrArg _ hb')⟩

end

/-- Settles O39: a read of `STATUS` returns each state its own word; every other step commutes with
overwriting `HAZ`, which neither `irq` nor the replies depend on. -/
theorem hazIsInert : Obligations.HazIsInert := by
  intro c s t b h
  by_cases he : s.nextEvent = .read .word 0x000C
  · cases h.symm.trans (stepAt_readStatus c he)
    exact ⟨_, stepAt_readStatus c (s := s.withHaz b) he, rfl, rfl, .inr ⟨he, rfl, rfl⟩⟩
  · obtain ⟨b', hu⟩ := stepAt_withHaz b he h
    exact ⟨_, hu, rfl, rfl, .inl rfl⟩

end Sys2Proof.Machine
end

section
/-! The registers of the block (10_state.md R30 to R33): the fields of the words they read as, and what
a write of them does. -/

namespace Sys2Proof.Machine

/-- A control register reads as 0 above its fields (10_state.md R31 to R33). -/
theorem extractLsb'_setWidth_above {n w start len : Nat} (x : BitVec n) (h : n ≤ start) :
    (x.setWidth w).extractLsb' start len = 0#len := by
  ext i hi
  simp [BitVec.getLsbD_of_ge x (start + i) (by omega)]

/-- `LIMBS` fits its field of `CFG` on every valid engine (10_state.md R31). -/
theorem cfgWord_fields {c : Config.Params} (hc : c.Valid) :
    ((cfgWord c).extractLsb' 0 8).toNat = c.limbs ∧ (cfgWord c).extractLsb' 8 4 = 8#4 ∧
      (cfgWord c).extractLsb' 12 20 = 0#20 := by
  obtain ⟨-, hmax⟩ := hc
  unfold cfgWord
  refine ⟨?_, ?_, extractLsb'_setWidth_above _ (by decide)⟩
  · rw [BitVec.extractLsb'_setWidth_of_le (by decide), BitVec.extractLsb'_append_eq_right,
      BitVec.toNat_ofNat, Nat.mod_eq_of_lt (by omega)]
  · rw [BitVec.extractLsb'_setWidth_of_le (by decide), BitVec.extractLsb'_append_eq_left]

theorem ctrlWord_fields (s : State) :
    s.ctrlWord.getLsbD 0 = s.ieDone ∧ s.ctrlWord.getLsbD 1 = s.ieErr ∧
      s.ctrlWord.extractLsb' 2 30 = 0#30 := by
  unfold State.ctrlWord
  refine ⟨?_, ?_, extractLsb'_setWidth_above _ (by decide)⟩
  all_goals rw [BitVec.getLsbD_setWidth, BitVec.getLsbD_append]; simp

/-- The one-bit fields of `STATUS`, bit 3 always 0 (10_state.md R33). -/
theorem statusWord_bits (s : State) :
    s.statusWord.getLsbD 0 = s.busy ∧ s.statusWord.getLsbD 1 = s.done ∧
      s.statusWord.getLsbD 2 = s.haz ∧ s.statusWord.getLsbD 3 = false ∧
      s.statusWord.getLsbD 8 = s.z ∧ s.statusWord.getLsbD 9 = s.one ∧
      s.statusWord.getLsbD 10 = s.prime := by
  unfold State.statusWord
  refine ⟨?_, ?_, ?_, ?_, ?_, ?_, ?_⟩
  all_goals rw [BitVec.getLsbD_setWidth]; repeat rw [BitVec.getLsbD_append]
  all_goals simp

theorem statusWord_err (s : State) : s.statusWord.extractLsb' 4 4 = s.err := by
  rw [State.statusWord, BitVec.extractLsb'_setWidth_of_le (by decide)]
  iterate 4 rw [BitVec.extractLsb'_append_eq_of_le (by decide)]
  exact BitVec.extractLsb'_append_eq_right

theorem statusWord_jres (s : State) : s.statusWord.extractLsb' 11 2 = s.jres := by
  rw [State.statusWord, BitVec.extractLsb'_setWidth_of_le (by decide)]
  iterate 7 rw [BitVec.extractLsb'_append_eq_of_le (by decide)]
  exact BitVec.extractLsb'_append_eq_left

theorem statusWord_above (s : State) : s.statusWord.extractLsb' 13 19 = 0#19 :=
  extractLsb'_setWidth_above _ (by decide)

/-- Settles O32: every field of `State.reset` is the one R45 lists, and the rest is computed from it. -/
theorem resetValues : Obligations.ResetValues :=
  ⟨State.reset_reg, rfl, rfl, rfl, rfl, rfl, rfl, rfl, rfl, rfl, rfl, rfl, rfl, rfl⟩

/-- Settles O45: the words read are the constants and `CUR`, with the fields of `CFG` given above. -/
theorem identificationRegisters : Obligations.IdentificationRegisters := by
  intro c s hc
  refine ⟨stepAt_readId c, fun he => ⟨_, stepAt_readCfg c he, cfgWord_fields hc⟩,
    stepAt_readCmd c, ?_⟩
  rintro v (he | he)
  · exact stepAt_writeId c he
  · exact stepAt_writeCfg c he

/-- Settles O46: a write is `writeCtrl`, the word read is `ctrlWord`, and each enable is a cause of
`irq`. -/
theorem ctrlRegister : Obligations.CtrlRegister :=
  ⟨rfl, rfl, fun c s =>
    ⟨fun hie hd => (irq_iff s).mpr (.inl ⟨hie, hd⟩), fun hie he => (irq_iff s).mpr (.inr ⟨hie, he⟩),
      fun _ he => stepAt_writeCtrl c he,
      fun he => ⟨_, stepAt_readCtrl c he, ctrlWord_fields s⟩⟩⟩

theorem and_not_eq_ite (a b : Bool) : (a && !b) = if b = true then false else a := by
  cases b <;> simp

/-- Settles O47: the word read is `statusWord`, whose fields stand above; a write is its three clears. -/
theorem statusRegister : Obligations.StatusRegister := by
  refine ⟨rfl, fun c s => ⟨fun he => ?_, fun v he => ?_⟩⟩
  · obtain ⟨hbusy, hdone, hhaz, herrclr, hz, hone, hprime⟩ := statusWord_bits s
    exact ⟨_, stepAt_readStatus c he, hbusy, hdone, hhaz, herrclr, statusWord_err s, hz, hone,
      hprime, statusWord_jres s, statusWord_above s⟩
  · rw [stepAt_writeStatus c he, State.writeStatus_eq, and_not_eq_ite, and_not_eq_ite]
    rfl

end Sys2Proof.Machine
end

section
/-! Limbs of a natural: which limbs a write of one limb changes, and a natural as the sum of its
limbs (20_memory.md R54, R59). -/

namespace Sys2Proof.Machine.Arith

/-- The formula of 20_memory.md R59 with its subtraction on the other side. -/
theorem setLimb_add_limb (v j : Nat) (w : Word) :
    setLimb v j w + (limb v j).toNat * 2 ^ (32 * j) = v + w.toNat * 2 ^ (32 * j) := by
  have hle : (limb v j).toNat * 2 ^ (32 * j) ≤ v := by
    have hparts := slot_parts v j
    rw [← limb_toNat] at hparts
    omega
  rw [setLimb]
  omega

/-- Writing limb `j` leaves the limbs below it (20_memory.md R59). -/
theorem setLimb_mod (v j : Nat) (w : Word) : setLimb v j w % 2 ^ (32 * j) = v % 2 ^ (32 * j) := by
  rw [setLimb_eq, Nat.mul_succ, pow_add, Nat.mul_comm (2 ^ (32 * j)) (2 ^ 32), ← Nat.mul_assoc,
    Nat.add_mul_mod_self_right, Nat.add_mul_mod_self_right, Nat.mod_mod]

/-- A limb is fixed by any longer low part. -/
theorem limb_eq_of_mod_eq {a b m j : Nat} (hm : m < j) (h : a % 2 ^ (32 * j) = b % 2 ^ (32 * j)) :
    limb a m = limb b m := by
  have hdvd : 2 ^ (32 * m) * 2 ^ 32 ∣ 2 ^ (32 * j) := by
    rw [← pow_add]
    exact pow_dvd_pow 2 (by omega)
  apply BitVec.eq_of_toNat_eq
  rw [limb_toNat, limb_toNat, ← Nat.mod_mul_right_div_self, ← Nat.mod_mul_right_div_self,
    ← Nat.mod_mod_of_dvd a hdvd, h, Nat.mod_mod_of_dvd b hdvd]

/-- A limb is fixed by any longer high part. -/
theorem limb_eq_of_div_eq {a b m k : Nat} (hm : k ≤ m) (h : a / 2 ^ (32 * k) = b / 2 ^ (32 * k)) :
    limb a m = limb b m := by
  have hsplit : 2 ^ (32 * m) = 2 ^ (32 * k) * 2 ^ (32 * (m - k)) := by
    rw [← pow_add]
    congr 1
    omega
  rw [limb, limb, hsplit, ← Nat.div_div_eq_div_mul, ← Nat.div_div_eq_div_mul, h]

theorem limb_setLimb_same (v j : Nat) (w : Word) : limb (setLimb v j w) j = w := by
  have hlow : v % 2 ^ (32 * j) < 2 ^ (32 * j) := Nat.mod_lt _ (Nat.two_pow_pos _)
  have hdiv : setLimb v j w / 2 ^ (32 * j) = w.toNat + v / 2 ^ (32 * (j + 1)) * 2 ^ 32 := by
    rw [setLimb_eq, Nat.mul_succ, pow_add, Nat.mul_comm (2 ^ (32 * j)) (2 ^ 32), ← Nat.mul_assoc,
      Nat.add_mul_div_right _ _ (Nat.two_pow_pos _), Nat.add_mul_div_right _ _ (Nat.two_pow_pos _),
      Nat.div_eq_of_lt hlow, Nat.zero_add]
  apply BitVec.eq_of_toNat_eq
  rw [limb_toNat, hdiv, Nat.add_mul_mod_self_right, Nat.mod_eq_of_lt w.isLt]

theorem limb_setLimb_of_ne {m j : Nat} (v : Nat) (w : Word) (h : m ≠ j) :
    limb (setLimb v j w) m = limb v m := by
  obtain hlt | hgt := Nat.lt_or_gt_of_ne h
  · exact limb_eq_of_mod_eq hlt (setLimb_mod v j w)
  · exact limb_eq_of_div_eq hgt (setLimb_div v j w)

/-- The low `n` limbs, summed with their weights (20_memory.md R54). -/
theorem sum_limbs (v n : Nat) :
    ∑ j ∈ Finset.range n, (limb v j).toNat * 2 ^ (32 * j) = v % 2 ^ (32 * n) := by
  induction n with
  | zero => simp [Nat.mod_one]
  | succ n ih => rw [Finset.sum_range_succ, ih, mod_two_pow_succ_limb]

end Sys2Proof.Machine.Arith
end

section
/-! The port of 20_memory.md: the offsets of limbs and the reserved offsets, what an access of
either does, and which accesses have no step (R52 to R61). -/

namespace Sys2Proof.Machine

section
variable {c : Config.Params} {s : State} {i : Reg} {j : Nat}

/-- Each of the 128 offsets of a register's window is a word's (20_memory.md R51). -/
theorem limbOffset_legal (i : Reg) (hj : j ≤ 127) :
    limbOffset i j ≤ 0x1FFF ∧ limbOffset i j % 4 = 0 := by
  unfold limbOffset
  omega

theorem hostRead_limb (hc : c.Valid) (hj : j < c.limbs) (s : State) :
    hostRead c (limbOffset i j) s =
      if s.busy then (0, s.markHaz) else (Arith.limb (s.reg i) j, s) := by
  rw [hostRead, busTarget_limbOffset c hc i hj]

theorem hostWrite_limb (hc : c.Valid) (hj : j < c.limbs) (v : Word) (s : State) :
    hostWrite c (limbOffset i j) v s =
      if s.busy then s.markHaz else s.setReg i (Arith.setLimb (s.reg i) j v) := by
  rw [hostWrite, busTarget_limbOffset c hc i hj]

theorem stepAt_readLimb (hc : c.Valid) (hj : j < c.limbs)
    (he : s.nextEvent = .read .word (limbOffset i j)) :
    stepAt c s = .next (if s.busy then s.rest.markHaz.reply 0
      else s.rest.reply (Arith.limb (s.reg i) j)) := by
  obtain ⟨ho, ha⟩ := limbOffset_legal i (Nat.le_of_lt_succ (hj.trans_le hc.2))
  rw [stepAt_read c he ho ha, hostRead_limb hc hj, State.rest_busy]
  split <;> rfl

theorem stepAt_writeLimb {v : Word} (hc : c.Valid) (hj : j < c.limbs)
    (he : s.nextEvent = .write .word (limbOffset i j) v) :
    stepAt c s = .next (if s.busy then s.rest.markHaz
      else s.rest.setReg i (Arith.setLimb (s.reg i) j v)) := by
  obtain ⟨ho, ha⟩ := limbOffset_legal i (Nat.le_of_lt_succ (hj.trans_le hc.2))
  rw [stepAt_write c he ho ha, hostWrite_limb hc hj]
  rfl

/-- The offsets between the control registers and the register file are reserved (20_memory.md
R56). -/
theorem busTarget_reserved_below_limbs {off : Nat} (hlo : 0x0014 ≤ off) (hhi : off < 0x1000) :
    busTarget c off = .reserved := by
  unfold busTarget
  iterate 5 rw [if_neg (by omega)]
  rw [if_pos hhi]

/-- The limbs from `LIMBS` up are reserved (20_memory.md R57). -/
theorem busTarget_reserved_limb (hj : c.limbs ≤ j) (hmax : j ≤ 127) :
    busTarget c (limbOffset i j) = .reserved := by
  have hlo : 0x1000 ≤ limbOffset i j := by unfold limbOffset; omega
  have hr : (limbOffset i j - 0x1000) % 0x200 / 4 = j := by unfold limbOffset; omega
  unfold busTarget
  iterate 6 rw [if_neg (by omega)]
  rw [hr, if_neg (by omega)]

theorem stepAt_readReserved {off : Nat} (ht : busTarget c off = .reserved) (ho : off ≤ 0x1FFF)
    (ha : off % 4 = 0) (he : s.nextEvent = .read .word off) :
    stepAt c s = .next (s.rest.reply 0) := by
  rw [stepAt_read c he ho ha, hostRead, ht]

theorem stepAt_writeReserved {off : Nat} {v : Word} (ht : busTarget c off = .reserved)
    (ho : off ≤ 0x1FFF) (ha : off % 4 = 0) (he : s.nextEvent = .write .word off v) :
    stepAt c s = .next s.rest := by
  rw [stepAt_write c he ho ha, hostWrite, ht]

end

/-- Settles O48: an access of a limb's offset is the access of that limb. -/
theorem operandLimbReads : Obligations.OperandLimbReads := by
  intro c s i j hc hj he
  have hstep := stepAt_readLimb hc hj he
  refine ⟨fun hb => ?_, fun hb => ?_⟩
  · rw [if_neg (Bool.eq_false_iff.mp hb)] at hstep
    exact ⟨_, hstep, Arith.limb_toNat _ _⟩
  · rwa [if_pos hb] at hstep

/-- Settles O49: the register written is `setLimb`, and each of its limbs is known. -/
theorem operandLimbWrites : Obligations.OperandLimbWrites := by
  intro c s i j v hc hj he
  have hstep := stepAt_writeLimb hc hj he
  refine ⟨fun hb => ?_, fun hb => ?_⟩
  · rw [if_neg (Bool.eq_false_iff.mp hb)] at hstep
    refine ⟨_, hstep, ?_, ?_, fun m hm => ?_⟩
    · simpa only [Arith.limb_toNat] using Arith.setLimb_add_limb (s.reg i) j v
    · rw [← Arith.limb_toNat, Arith.limb_setLimb_same]
    · rw [← Arith.limb_toNat, Arith.limb_setLimb_of_ne _ v hm, Arith.limb_toNat]
  · rwa [if_pos hb] at hstep

/-- Settles O50: both kinds of offset are words of the block that map to `reserved`. -/
theorem reservedOffsets : Obligations.ReservedOffsets := by
  intro c s off hc hoff
  obtain ⟨ht, ho, ha⟩ : busTarget c off = .reserved ∧ off ≤ 0x1FFF ∧ off % 4 = 0 := by
    rcases hoff with ⟨hlo, hhi, ha⟩ | ⟨i, j, hj, hmax, rfl⟩
    · exact ⟨busTarget_reserved_below_limbs hlo (by omega), by omega, ha⟩
    · exact ⟨busTarget_reserved_limb hj hmax, limbOffset_legal i hmax⟩
  exact ⟨stepAt_readReserved ht ho ha, fun _ => stepAt_writeReserved ht ho ha⟩

/-- Settles O51: the limbs read sum to the register modulo `2 ^ W`, which exceeds it. -/
theorem registerIsTheSumOfItsLimbs : Obligations.RegisterIsTheSumOfItsLimbs := by
  intro c s i hc hinv hb
  have hread (j : Nat) (hj : j ∈ Finset.range c.limbs) :
      (hostRead c (limbOffset i j) s).1 = Arith.limb (s.reg i) j := by
    rw [hostRead_limb hc (Finset.mem_range.mp hj), if_neg (Bool.eq_false_iff.mp hb)]
  calc ∑ j ∈ Finset.range c.limbs, (hostRead c (limbOffset i j) s).1.toNat * 2 ^ (32 * j)
      = ∑ j ∈ Finset.range c.limbs, (Arith.limb (s.reg i) j).toNat * 2 ^ (32 * j) :=
        Finset.sum_congr rfl fun j hj => by rw [hread j hj]
    _ = s.reg i % 2 ^ (32 * c.limbs) := Arith.sum_limbs ..
    _ = s.reg i := Nat.mod_eq_of_lt (hinv.regs_lt i)

/-! Accesses without a step. -/

/-- The accesses of 20_memory.md R55, whichever name the model gives each. -/
theorem exists_accessFault_iff (size : AccessSize) (off : Nat) :
    (∃ f, accessFault size off = some f) ↔ size ≠ .word ∨ off % 4 ≠ 0 ∨ 0x1FFC < off := by
  rw [← Option.ne_none_iff_exists', ne_eq, accessFault_none_iff]
  by_cases hw : size = .word
  · simp only [hw, true_and, ne_eq, not_true_eq_false, false_or]
    omega
  · simp [hw]

theorem readStep_eq_fault_iff {c : Config.Params} {size : AccessSize} {off : Nat} {s : State}
    {f : Fault} : readStep c size off s = .fault f ↔ accessFault size off = some f := by
  unfold readStep
  cases accessFault size off <;> simp

theorem writeStep_eq_fault_iff {c : Config.Params} {size : AccessSize} {off : Nat} {v : Word}
    {s : State} {f : Fault} :
    writeStep c size off v s = .fault f ↔ accessFault size off = some f := by
  unfold writeStep
  cases accessFault size off <;> simp

theorem runEvent_faults_iff (c : Config.Params) (e : Event) (s : State) :
    (∃ f, runEvent c e s = .fault f) ↔
      ∃ size off, (e = .read size off ∨ ∃ v, e = .write size off v) ∧
        (size ≠ .word ∨ off % 4 ≠ 0 ∨ 0x1FFC < off) := by
  simp only [← exists_accessFault_iff]
  cases e with
  | read size off => simp [runEvent, readStep_eq_fault_iff]
  | write size off v => simp [runEvent, writeStep_eq_fault_iff]
  | engine =>
    obtain ⟨t, ht⟩ := engineTurn_next s
    simp [runEvent, ht]
  | reset => simp [runEvent]

theorem runEvent_ne_refused (c : Config.Params) (e : Event) (s : State) (r : Refusal) :
    runEvent c e s ≠ .refused r := by
  cases e with
  | read size off =>
    simp only [runEvent, readStep]
    split <;> nofun
  | write size off v =>
    simp only [runEvent, writeStep]
    split <;> nofun
  | engine =>
    obtain ⟨t, ht⟩ := engineTurn_next s
    simp [runEvent, ht]
  | reset => nofun

/-- Settles O8: only the port's check of an access faults, and nothing refuses. -/
theorem onlyNonWordAccessesAreStuck : Obligations.OnlyNonWordAccessesAreStuck := fun c s =>
  ⟨runEvent_faults_iff c s.nextEvent s.rest, runEvent_ne_refused c s.nextEvent s.rest⟩

end Sys2Proof.Machine
end

section
/-! The command in flight: its acceptance or refusal (20_memory.md R64, R65), what is frozen until
its completion (R62, R73), and the completion itself (R68). -/

namespace Sys2Proof.Machine

section
variable (c : Config.Params) {s : State}

theorem stepAt_refuse {w : Word} (he : s.nextEvent = .write .word 0x0010 w)
    (hr : s.busy = true ∨ s.err ≠ 0#4) : stepAt c s = .next s.rest.markHaz := by
  rw [stepAt_writeCmd c he]
  simp [State.offer, hr]

theorem stepAt_exec {i : Instr} (he : s.nextEvent = .engine) (hb : s.busy = true)
    (hd : decode s.cur = .ok i) : stepAt c s = exec i s.rest := by
  simp [stepAt_engine c he, engineTurn, hb, hd]

end

theorem withFetchWord_toNat (s : State) (w : Word) :
    s.withFetchWord 32 w.toNat = s.withCommand w := by
  rw [State.withFetchWord, Nat.mod_eq_of_lt w.isLt, BitVec.ofNat_toNat, BitVec.setWidth_eq]

/-- Settles O5: the turn decodes `CUR`, and a placed word is `CUR` of a busy engine whose next
event is the turn. -/
theorem stepRunsTheDecodedCommand : Obligations.StepRunsTheDecodedCommand := by
  refine ⟨fun c _ _ => stepAt_exec c, fun _ => rfl, fun s w i hd => ?_⟩
  rw [withFetchWord_toNat]
  exact stepAt_exec (s := s.withCommand w) Config.engine rfl rfl hd

/-- Settles O34: an idle engine with `ERR = 0` takes the offer. -/
theorem commandAccepted : Obligations.CommandAccepted := fun c _ _ => stepAt_accept c

/-- Settles O35: a busy engine, or one with a fault pending, drops the offer and marks it. -/
theorem commandRefused : Obligations.CommandRefused := fun c _ _ => stepAt_refuse c

/-- Settles O6: with a command in flight the turn is the fault entry or a completion, and both end
the command and keep `CUR`, `HAZ` and `CTRL`. -/
theorem everyCommandCompletes : Obligations.EveryCommandCompletes := by
  intro c s he hb
  rw [stepAt_engine c he]
  rcases engineTurn_cases s.rest with ⟨hidle, -⟩ | ⟨-, e, h⟩ | ⟨-, i, t, -, -, h, hc⟩
  · exact absurd (hb.symm.trans hidle) nofun
  · exact ⟨_, h, rfl, rfl, rfl, rfl, rfl, rfl⟩
  · exact ⟨t, h, hc.busy, hc.done, hc.cur, hc.haz, hc.ieDone, hc.ieErr⟩

/-- Settles O43: the steps that write a register or `CUR` start idle (a limb write, acceptance) or
end idle (a completion, reset). -/
theorem operandsAndCommandAreFrozenInFlight : Obligations.OperandsAndCommandAreFrozenInFlight := by
  intro c s t hs ht h
  cases stepTo_of_stepAt h with
  | limb _ hb _ => exact absurd (hs.symm.trans hb) nofun
  | accept _ hb _ => exact absurd (hs.symm.trans hb) nofun
  | complete _ _ _ _ hc => exact absurd (ht.symm.trans hc.busy) nofun
  | reset _ => exact absurd ht nofun
  | _ => exact ⟨rfl, rfl⟩

end Sys2Proof.Machine
end

section
/-! The opcode table as fields: the row of a command says of a word what its encoding makes of it, and
every word is in a row or falls under R87 (30_encoding.md R82, R84, R87, R92). -/

namespace Sys2Proof

open Laws.Fields (hasFields_ofNat)
open Laws.Fields.Statement (HasFields)

/-- The fields of `w` are those of the command's row: its operands, and 0 where 30_encoding.md R82 says
"must be 0". -/
def Instr.HasRowFields (w : Word) : Instr → Prop
  | .nop => HasFields w 0x00 0 0 0 0 0
  | .sample rd rmin rmax => HasFields w 0x01 rd rmin rmax 0 0
  | .jacobi rd ra rn => HasFields w 0x02 rd ra 0 rn 0
  | .gcd rd ra rb => HasFields w 0x03 rd ra rb 0 0
  | .modexp rd ra re rn => HasFields w 0x04 rd ra re rn 0
  | .modmul rd ra rb rn => HasFields w 0x05 rd ra rb rn 0
  | .modinv rd rs rn => HasFields w 0x06 rd rs 0 rn 0
  | .ptest rn conf => HasFields w 0x07 0 0 0 rn conf

/-- `HasFields` as arithmetic on the word (30_encoding.md R81). -/
theorem hasFields_iff_nat (w : Word) (op : Nat) (rd ra rb rn : Reg) (imm : Nat) :
    HasFields w op rd ra rb rn imm ↔
      w.toNat / 2 ^ 24 = op ∧ w.toNat / 2 ^ 21 % 8 = rd ∧ w.toNat / 2 ^ 18 % 8 = ra ∧
        w.toNat / 2 ^ 15 % 8 = rb ∧ w.toNat / 2 ^ 12 % 8 = rn ∧ w.toNat % 2 ^ 12 = imm := by
  simp only [HasFields, Fin.ext_iff, fieldOP_toNat, fieldRD_val, fieldRA_val, fieldRB_val,
    fieldRN_val, fieldIMM_eq]

/-- A row's mask test asks for the row's `OP` and for 0 in the fields it does not use (30_encoding.md
R82, R84). -/
theorem isRow_iff_hasRowFields (w : Word) (i : Instr) : i.isRow w ↔ i.HasRowFields w := by
  cases i <;>
    simp only [Instr.isRow, Instr.HasRowFields, mask_nop_iff, mask_sample_iff, mask_jacobi_iff,
      mask_gcd_iff, mask_modexp_iff, mask_modmul_iff, mask_modinv_iff, mask_ptest_iff,
      hasFields_iff_nat, Fin.ext_iff, fieldRD_val, fieldRA_val, fieldRB_val, fieldRN_val,
      fieldIMM_eq, Fin.val_zero] <;>
    omega

theorem decode_eq_ok_iff_fields (w : Word) (i : Instr) : decode w = .ok i ↔ i.HasRowFields w :=
  (decode_eq_ok_iff w i).trans (isRow_iff_hasRowFields w i)

theorem hasRowFields_encode {i : Instr} (h : i.wf = true) : i.HasRowFields (encode i) := by
  cases i with
  | nop => exact Laws.Fields.nop h
  | sample rd rmin rmax => exact Laws.Fields.sample rd rmin rmax h
  | jacobi rd ra rn => exact Laws.Fields.jacobi rd ra rn h
  | gcd rd ra rb => exact Laws.Fields.gcd rd ra rb h
  | modexp rd ra re rn => exact Laws.Fields.modexp rd ra re rn h
  | modmul rd ra rb rn => exact Laws.Fields.modmul rd ra rb rn h
  | modinv rd rs rn => exact Laws.Fields.modinv rd rs rn h
  | ptest rn conf => exact Laws.Fields.ptest rn conf h

/-- The fields tile the word, so they determine it (30_encoding.md R81, R92). -/
theorem ofNat_encodeFields_of_hasFields {w : Word} {op : Nat} {rd ra rb rn : Reg} {imm : Nat}
    (h : HasFields w op rd ra rb rn imm) : BitVec.ofNat 32 (encodeFields op rd ra rb rn imm) = w := by
  obtain ⟨rfl, rfl, rfl, rfl, rfl, rfl⟩ := h
  rw [← toNat_fields, BitVec.ofNat_toNat, BitVec.setWidth_eq]

theorem encode_of_hasRowFields {w : Word} {i : Instr} (h : i.HasRowFields w) : encode i = w := by
  cases i <;> exact ofNat_encodeFields_of_hasFields h

theorem fieldIMM_lt (w : Word) : fieldIMM w < 4096 := (w.extractLsb' 0 12).isLt

/-- A command read off a word is well-formed: `IMM` has 12 bits (30_encoding.md R83). -/
theorem wf_of_hasRowFields {w : Word} {i : Instr} (h : i.HasRowFields w) : i.wf = true := by
  cases i with
  | ptest rn conf =>
    obtain ⟨-, -, -, -, -, rfl⟩ := h
    exact decide_eq_true (fieldIMM_lt w)
  | _ => rfl

/-- Settles O1: the word of a command has the fields of the command's row, and decodes by them. -/
theorem decodeOfEncode : Obligations.DecodeOfEncode := fun i h =>
  (decode_eq_ok_iff_fields _ i).mpr (hasRowFields_encode h)

/-- Settles O2: a word that decodes has the fields of the command's row, which determine it. -/
theorem encodeOfDecode : Obligations.EncodeOfDecode := by
  intro w i h
  have hrow := (decode_eq_ok_iff_fields w i).mp h
  exact ⟨wf_of_hasRowFields hrow, encode_of_hasRowFields hrow⟩

/-! The illegal words. -/

theorem decode_error_iff_no_row (w : Word) :
    (∃ e, decode w = .error e) ↔ ∀ i : Instr, ¬ i.HasRowFields w := by
  simp only [← decode_eq_ok_iff_fields]
  cases decode w <;> simp

/-- A row excludes both cases of 30_encoding.md R87. -/
theorem not_illegal_of_hasRowFields {w : Word} {i : Instr} (h : i.HasRowFields w) :
    ¬ (8 ≤ (fieldOP w).toNat ∨ reservedFieldSet w) := by
  cases i <;> obtain ⟨hop, hrd, hra, hrb, hrn, himm⟩ := h <;>
    simp [reservedFieldSet, ← BitVec.toNat_inj, hop, hrd, hra, hrb, hrn, himm]

/-- A word under neither case of 30_encoding.md R87 is in the row of its `OP`. -/
theorem hasRowFields_of_not_illegal {w : Word}
    (h : ¬ (8 ≤ (fieldOP w).toNat ∨ reservedFieldSet w)) : ∃ i : Instr, i.HasRowFields w := by
  obtain ⟨hop, hres⟩ := not_or.mp h
  simp only [reservedFieldSet, ← BitVec.toNat_inj] at hres
  rcases hn : (fieldOP w).toNat with _ | _ | _ | _ | _ | _ | _ | _ | n <;> simp [hn] at hres
  · exact ⟨.nop, hn, hres⟩
  · exact ⟨.sample (fieldRD w) (fieldRA w) (fieldRB w), hn, rfl, rfl, rfl, hres⟩
  · exact ⟨.jacobi (fieldRD w) (fieldRA w) (fieldRN w), hn, rfl, rfl, hres.1, rfl, hres.2⟩
  · exact ⟨.gcd (fieldRD w) (fieldRA w) (fieldRB w), hn, rfl, rfl, rfl, hres⟩
  · exact ⟨.modexp (fieldRD w) (fieldRA w) (fieldRB w) (fieldRN w), hn, rfl, rfl, rfl, rfl, hres⟩
  · exact ⟨.modmul (fieldRD w) (fieldRA w) (fieldRB w) (fieldRN w), hn, rfl, rfl, rfl, rfl, hres⟩
  · exact ⟨.modinv (fieldRD w) (fieldRA w) (fieldRN w), hn, rfl, rfl, hres.1, rfl, hres.2⟩
  · obtain ⟨hrd, hra, hrb⟩ := hres
    exact ⟨.ptest (fieldRN w) (fieldIMM w), hn, hrd, hra, hrb, rfl, rfl⟩
  · omega

theorem decode_error_iff (w : Word) :
    (∃ e, decode w = .error e) ↔ (8 ≤ (fieldOP w).toNat ∨ reservedFieldSet w) := by
  rw [decode_error_iff_no_row, ← not_exists, not_iff_comm]
  exact ⟨hasRowFields_of_not_illegal, fun ⟨_, hi⟩ => not_illegal_of_hasRowFields hi⟩

end Sys2Proof

namespace Sys2Proof.Machine

/-- An illegal word in flight completes with the fault entry (30_encoding.md R87). -/
theorem stepAt_illegal (c : Config.Params) {s : State} {e : DecodeError} (he : s.nextEvent = .engine)
    (hb : s.busy = true) (hd : decode s.cur = .error e) :
    stepAt c s = .next (s.rest.takeFault .illegal) := by
  simp [stepAt_engine c he, engineTurn, hb, hd]

/-- Settles O3: the words in no row are the two cases, and the turn of one is the fault entry. -/
theorem illegalWordsAreExactlyTwoCases : Obligations.IllegalWordsAreExactlyTwoCases := by
  refine ⟨decode_error_iff, fun c s e => stepAt_illegal c, ?_⟩
  simp only [List.forall_mem_cons]
  exact ⟨⟨_, rfl⟩, ⟨_, rfl⟩, ⟨_, rfl⟩, ⟨_, rfl⟩, ⟨_, rfl⟩, nofun⟩

/-- Settles O4: one closed word a row. -/
theorem workedWordsDecode : Obligations.WorkedWordsDecode := by
  unfold Obligations.WorkedWordsDecode
  decide

end Sys2Proof.Machine
end

section
/-! `LD Ri, v` (30_encoding.md R91): after `n` limb writes the low `n` limbs of the register are those
of `v` (20_memory.md R59). -/

namespace Sys2Proof.Machine

/-- After `n + 1` steps, the last from the state after `n`. -/
theorem runAt_succ_of_next {c : Config.Params} {n : Nat} {s t : State} (h : runAt c n s = .next t) :
    runAt c (n + 1) s = stepAt c t := by
  induction n generalizing s with
  | zero =>
    cases h
    rw [runAt]
    cases stepAt c t <;> rfl
  | succ n ih =>
    rw [runAt] at h ⊢
    cases hs : stepAt c s with
    | next u => exact ih (by simpa only [hs] using h)
    | fault f => simp [hs] at h
    | refused r => simp [hs] at h

/-- The write of limb `j` of `v` to `R[i]`. -/
def limbWrite (i : Reg) (v j : Nat) : Event := .write .word (limbOffset i j) (Arith.limb v j)

theorem ldEvents_eq (c : Config.Params) (i : Reg) (v : Nat) :
    ldEvents c i v = (List.range c.limbs).map (limbWrite i v) := rfl

/-- Writing limb `n` of `v` over a register whose low `n` limbs are those of `v`. -/
theorem setLimb_limb_mod {x v n : Nat} (h : x % 2 ^ (32 * n) = v % 2 ^ (32 * n)) :
    Arith.setLimb x n (Arith.limb v n) % 2 ^ (32 * (n + 1)) = v % 2 ^ (32 * (n + 1)) := by
  rw [Arith.mod_two_pow_succ_limb, Arith.setLimb_mod, Arith.limb_setLimb_same, h,
    ← Arith.mod_two_pow_succ_limb]

theorem setReg_reg_eq_self (s : State) (i : Reg) : s.setReg i (s.reg i) = s := by
  simp [State.setReg, State.reg, Vector.get_eq_getElem]

theorem setReg_setReg (s : State) (i : Reg) (x y : Nat) :
    (s.setReg i x).setReg i y = s.setReg i y := by
  simp [State.setReg]

/-- An idle engine takes the write of one limb (20_memory.md R59). -/
theorem stepAt_limbWrite {c : Config.Params} {s : State} {i : Reg} {v j : Nat} {rest : List Event}
    (hc : c.Valid) (hj : j < c.limbs) (hb : s.busy = false) :
    stepAt c (s.setAgenda (limbWrite i v j :: rest)) =
      .next ((s.setReg i (Arith.setLimb (s.reg i) j (Arith.limb v j))).setAgenda rest) := by
  rw [stepAt_writeLimb hc hj rfl, State.setAgenda_busy, if_neg (Bool.eq_false_iff.mp hb)]
  rfl

/-- The first `n` limb writes of `LD` change `R[i]` alone, to a `W`-bit natural with the low `n` limbs
of `v`. -/
theorem runAt_limbWrites {c : Config.Params} {s : State} (hc : c.Valid) (hs : s.Inv c)
    (hb : s.busy = false) (i : Reg) (v : Nat) {n : Nat} (hn : n ≤ c.limbs) (rest : List Event) :
    ∃ x, runAt c n (s.setAgenda ((List.range n).map (limbWrite i v) ++ rest)) =
        .next ((s.setReg i x).setAgenda rest) ∧
      x % 2 ^ (32 * n) = v % 2 ^ (32 * n) ∧ x < 2 ^ c.W := by
  induction n generalizing rest with
  | zero =>
    refine ⟨s.reg i, ?_, by simp [Nat.mod_one], hs.regs_lt i⟩
    rw [setReg_reg_eq_self]
    rfl
  | succ n ih =>
    obtain ⟨x, hrun, hmod, hlt⟩ := ih (Nat.le_of_succ_le hn) (limbWrite i v n :: rest)
    refine ⟨Arith.setLimb x n (Arith.limb v n), ?_, setLimb_limb_mod hmod,
      Arith.setLimb_lt _ hn hlt⟩
    rw [List.range_succ, List.map_append, List.append_assoc, List.map_singleton,
      List.singleton_append, runAt_succ_of_next hrun, stepAt_limbWrite (s := s.setReg i x) hc hn hb,
      State.setReg_reg_self, setReg_setReg]

/-- Settles O52: all limb writes leave the natural below `2 ^ W` with the limbs of `v`, which is `v`. -/
theorem loadSequenceLoadsTheRegister : Obligations.LoadSequenceLoadsTheRegister := by
  intro c s i v rest hc hs hb hv
  obtain ⟨x, hrun, hmod, hlt⟩ := runAt_limbWrites hc hs hb i v le_rfl rest
  obtain rfl : x = v := (Nat.mod_eq_of_lt hlt).symm.trans (hmod.trans (Nat.mod_eq_of_lt hv))
  exact hrun

end Sys2Proof.Machine
end

section
/-! NOP (40_control.md R100): its one word, its completion, and its refusal while a fault is pending. -/

namespace Sys2Proof

theorem encode_nop : encode .nop = 0 := rfl

/-- NOP's row is the single word 0: the word that decodes to it is its encoding (40_control.md R100). -/
theorem decode_eq_nop_iff (w : Word) : decode w = .ok .nop ↔ w = 0 := by
  constructor
  · intro h
    exact (encodeOfDecode w .nop h).2.symm.trans encode_nop
  · rintro rfl
    exact decodeOfEncode .nop rfl

/-- `OP = 0x00` is NOP's alone (30_encoding.md R84). -/
theorem eq_nop_of_hasRowFields {w : Word} {i : Instr} (hrow : i.HasRowFields w)
    (hop : fieldOP w = 0) : i = .nop := by
  cases i with
  | nop => rfl
  | _ =>
    obtain ⟨hopcode, -⟩ := hrow
    simp [hop] at hopcode

theorem decode_error_of_fieldOP_zero {w : Word} (hop : fieldOP w = 0) (hw : w ≠ 0) :
    ∃ e, decode w = .error e := by
  refine (decode_error_iff_no_row w).mpr fun i hrow => ?_
  obtain rfl := eq_nop_of_hasRowFields hrow hop
  exact hw ((decode_eq_nop_iff w).mp ((decode_eq_ok_iff_fields w .nop).mpr hrow))

end Sys2Proof

namespace Sys2Proof.Machine

theorem exec_nop (s : State) : exec .nop s = .next s.finish := rfl

/-- With `IE_DONE` set the completion of a command raises `irq` (20_memory.md R68, 10_state.md R43). -/
theorem irq_finish {s : State} (h : s.ieDone = true) : s.finish.irq = true :=
  (irq_iff s.finish).mpr (.inl ⟨h, s.finish_done⟩)

theorem statusWord_finish_reset : State.reset.finish.statusWord = 0x00000002#32 := by decide

/-- Settles O9: NOP is the completion alone, its row has one word, and its offer is refused as any
command's is. -/
theorem nopMeaning : Obligations.NopMeaning := by
  refine ⟨exec_nop, fun s t hie ht => ?_, decode_eq_nop_iff, fun _ => decode_error_of_fieldOP_zero,
    fun t ht => ?_, fun c _ he herr => stepAt_refuse c he (.inr herr)⟩
  · obtain rfl := Host.Outcome.next.inj ((exec_nop s).symm.trans ht)
    exact irq_finish hie
  · obtain rfl := Host.Outcome.next.inj ((exec_nop State.reset).symm.trans ht)
    exact statusWord_finish_reset

end Sys2Proof.Machine
end

section
/-! SAMPLE (41_sampler.md): its completion and its fault (R106), and the results its draws reach (R107,
R108). -/

namespace Sys2Proof.Machine.Arith

/-- The raw answer `r - min` selects `r` (41_sampler.md R107). -/
theorem sample_sub {min max r : Nat} (hmin : min ≤ r) (hmax : r ≤ max) :
    sample min max (r - min) = r := by
  have hmod : (r - min) % (max - min + 1) = r - min := Nat.mod_eq_of_lt (by omega)
  rw [sample, hmod, Nat.add_sub_cancel' hmin]

/-- The draw is wide enough for every `r` of the interval (41_sampler.md R108). -/
theorem sub_lt_two_pow_drawBits {min max r : Nat} (hmax : r ≤ max) :
    r - min < 2 ^ drawBits max := by
  have := lt_two_pow_drawBits max
  omega

/-- The results of `sample` on the raws of the drawn width are the interval (41_sampler.md R107,
R108). -/
theorem exists_raw_sample_eq_iff {min max r : Nat} (h : min ≤ max) :
    (∃ raw < 2 ^ drawBits max, sample min max raw = r) ↔ min ≤ r ∧ r ≤ max := by
  constructor
  · rintro ⟨raw, -, rfl⟩
    exact ⟨le_sample min max raw, sample_le h raw⟩
  · rintro ⟨hmin, hmax⟩
    exact ⟨r - min, sub_lt_two_pow_drawBits hmax, sample_sub hmin hmax⟩

end Sys2Proof.Machine.Arith

namespace Sys2Proof.Machine

section

variable {rmin rmax : Reg} {s : State}

/-- The end of a value command on one record (10_state.md R39, 20_memory.md R68). -/
theorem completeValue_eq_wrote (rd : Reg) (v : Nat) (s : State) :
    s.completeValue rd v = s.wrote rd v := rfl

theorem exec_sample_of_le (rd : Reg) (h : s.reg rmin ≤ s.reg rmax) :
    exec (.sample rd rmin rmax) s =
      .next ((s.wrote rd (Arith.sample (s.reg rmin) (s.reg rmax)
        (s.source.draw (Arith.drawBits (s.reg rmax))))).setSource s.source.advance) := by
  have hf : faultOn (.sample rd rmin rmax) s = 0 := if_neg h.not_gt
  rw [exec_of_no_fault hf, completed, completeValue_eq_wrote, value]

theorem exec_sample_of_lt (rd : Reg) (h : s.reg rmax < s.reg rmin) :
    exec (.sample rd rmin rmax) s = .next (s.faulted 3) := by
  have hf : faultOn (.sample rd rmin rmax) s = 3 := if_pos h
  rw [exec_of_fault (hf ▸ by decide), hf]

/-- SAMPLE on the source `src` writes what its draw selects. -/
theorem exec_sample_setSource (rd : Reg) (h : s.reg rmin ≤ s.reg rmax) (src : RandomSource) :
    ∃ t, exec (.sample rd rmin rmax) (s.setSource src) = .next t ∧
      t.reg rd = Arith.sample (s.reg rmin) (s.reg rmax)
        (src.draw (Arith.drawBits (s.reg rmax))) := by
  refine ⟨_, exec_sample_of_le rd h, ?_⟩
  rw [← completeValue_eq_wrote]
  simp

end

/-- A source that answers `raw` within the width of the draw (00_scope.md R17). -/
theorem exists_source_draw_eq {raw k : Nat} (h : raw < 2 ^ k) :
    ∃ src : RandomSource, src.draw k = raw :=
  ⟨{ answers := [raw], drawn := 0 }, RandomSource.draw_of_offered [] 0 h⟩

/-- Settles O10: the word by SAMPLE's row of the opcode table, the two outcomes by the fault table. -/
theorem sampleMeaning : Obligations.SampleMeaning := fun rd _ _ _ =>
  ⟨fun w => decode_eq_ok_iff w _, exec_sample_of_le rd, exec_sample_of_lt rd⟩

/-- Settles O11: a source answers each raw of the drawn width, and the raws of that width give exactly
the interval. -/
theorem sampleReachesExactlyItsInterval : Obligations.SampleReachesExactlyItsInterval := by
  intro rd rmin rmax s h
  have reach : ∀ raw < 2 ^ Arith.drawBits (s.reg rmax), ∃ (src : RandomSource) (t : State),
      src.draw (Arith.drawBits (s.reg rmax)) = raw ∧
      exec (.sample rd rmin rmax) (s.setSource src) = .next t ∧
      t.reg rd = Arith.sample (s.reg rmin) (s.reg rmax) raw := by
    intro raw hraw
    obtain ⟨src, rfl⟩ := exists_source_draw_eq hraw
    obtain ⟨t, ht, hreg⟩ := exec_sample_setSource rd h src
    exact ⟨src, t, rfl, ht, hreg⟩
  refine ⟨reach, fun r => Iff.trans ?_ (Arith.exists_raw_sample_eq_iff h)⟩
  constructor
  · rintro ⟨src, t, ht, rfl⟩
    obtain ⟨u, hu, hreg⟩ := exec_sample_setSource rd h src
    obtain rfl := Host.Outcome.next.inj (ht.symm.trans hu)
    exact ⟨_, src.draw_lt _, hreg.symm⟩
  · rintro ⟨raw, hraw, rfl⟩
    obtain ⟨src, t, -, ht, hreg⟩ := reach raw hraw
    exact ⟨src, t, ht, hreg⟩

end Sys2Proof.Machine
end

section
/-! The Jacobi symbol: the six rules as equations (42_jacobi.md R116), their agreement with Mathlib's
symbol (R119), and the command JACOBI (R118). -/

namespace Sys2Proof.Machine.Arith

/-! The six rules, one equation each. -/

theorem jacobi_zero (n : Nat) : jacobi 0 n = if n = 1 then 1 else 0 := rfl

theorem jacobi_one (n : Nat) : jacobi 1 n = 1 := rfl

theorem jacobi_two (n : Nat) : jacobi 2 n = jacobiTwo n := rfl

section

variable {a n : Nat}

/-- Where rules 1 to 3 do not apply, the symbol follows the recursive ones. -/
theorem jacobi_of_three_le (hn : 0 < n) (ha : 3 ≤ a) :
    jacobi a n =
      if n ≤ a then jacobi (a % n) n
      else if a % 2 = 0 then jacobiTwo n * jacobi (a / 2) n
      else if a % 4 = 3 ∧ n % 4 = 3 then -jacobi n a
      else jacobi n a := by
  rw [jacobi_unroll hn, if_neg (by omega), if_neg (by omega), if_neg (by omega)]

theorem jacobi_reduce (hn : 0 < n) (ha : 3 ≤ a) (h : n ≤ a) : jacobi a n = jacobi (a % n) n := by
  rw [jacobi_of_three_le hn ha, if_pos h]

theorem jacobi_halve (ha : 3 ≤ a) (h : a < n) (heven : a % 2 = 0) :
    jacobi a n = jacobi 2 n * jacobi (a / 2) n := by
  rw [jacobi_of_three_le (by omega) ha, if_neg h.not_ge, if_pos heven, jacobi_two]

theorem jacobi_swap (ha : 3 ≤ a) (h : a < n) (hodd : a % 2 = 1) :
    jacobi a n = if a % 4 = 3 ∧ n % 4 = 3 then -jacobi n a else jacobi n a := by
  rw [jacobi_of_three_le (by omega) ha, if_neg h.not_ge, if_neg (by omega)]

end

/-! The rules are identities of the mathematical symbol. -/

theorem jacobiTwo_eq_jacobiSym {n : Nat} (hn : n % 2 = 1) : jacobiTwo n = jacobiSym 2 n := by
  rw [jacobiSym.at_two (Nat.odd_iff.mpr hn), ZMod.χ₈_nat_eq_if_mod_eight, if_neg (by omega),
    jacobiTwo]

/-- By induction along the calls of R116: reduction, multiplicativity, quadratic reciprocity
(42_jacobi.md R119). -/
theorem jacobi_eq_jacobiSym (a n : Nat) (hn : n % 2 = 1) : jacobi a n = jacobiSym a n := by
  have hpos : 0 < n := by omega
  by_cases hbase : a < 3
  · interval_cases a
    · rw [jacobi_zero]
      split
      next h1 => rw [h1, jacobiSym.one_right]
      next h1 => exact (jacobiSym.zero_left (by omega)).symm
    · exact (jacobiSym.one_left n).symm
    · exact jacobiTwo_eq_jacobiSym hn
  have ha : 3 ≤ a := by omega
  rcases le_or_gt n a with hle | hlt
  · rw [jacobi_reduce hpos ha hle, jacobi_eq_jacobiSym (a % n) n hn, Int.natCast_mod,
      ← jacobiSym.mod_left]
  rcases Nat.mod_two_eq_zero_or_one a with heven | hodd
  · have hsplit : (a : Int) = 2 * (a / 2 : Nat) := by omega
    rw [jacobi_halve ha hlt heven, jacobi_two, jacobiTwo_eq_jacobiSym hn,
      jacobi_eq_jacobiSym (a / 2) n hn, ← jacobiSym.mul_left, ← hsplit]
  · rw [jacobi_swap ha hlt hodd, jacobi_eq_jacobiSym n a hodd,
      jacobiSym.quadratic_reciprocity_if hodd hn]
termination_by jacobiMeasure a n
decreasing_by
  · exact jacobiMeasure_mod_lt hpos hle
  · exact jacobiMeasure_half_lt (by omega) hlt
  · exact jacobiMeasure_swap_lt hlt

section

variable {n : Nat}

theorem jacobi_cases (a : Nat) (hn : n % 2 = 1) :
    jacobi a n = -1 ∨ jacobi a n = 0 ∨ jacobi a n = 1 := by
  have := jacobiSym.trichotomy a n
  rw [jacobi_eq_jacobiSym a n hn]
  tauto

theorem jacobi_eq_zero_iff (a : Nat) (hn : n % 2 = 1) : jacobi a n = 0 ↔ 1 < Nat.gcd a n := by
  have hpos : 0 < Nat.gcd a n := Nat.gcd_pos_of_pos_right a (by omega)
  rw [jacobi_eq_jacobiSym a n hn, jacobiSym.eq_zero_iff, Int.gcd_natCast_natCast]
  omega

/-- Euler's criterion (42_jacobi.md R119). -/
theorem jacobi_emod_prime (a : Nat) (hn : n % 2 = 1) (hp : n.Prime) :
    jacobi a n % (n : Int) = ((a ^ ((n - 1) / 2) % n : Nat) : Int) := by
  have : Fact n.Prime := ⟨hp⟩
  have hhalf : (n - 1) / 2 = n / 2 := by omega
  have heuler : ((jacobi a n : Int) : ZMod n) = ((a ^ (n / 2) : Nat) : Int) := by
    rw [jacobi_eq_jacobiSym a n hn, ← jacobiSym.legendreSym.to_jacobiSym, legendreSym.eq_pow]
    push_cast
    rfl
  rw [hhalf, Int.natCast_mod]
  exact (ZMod.intCast_eq_intCast_iff' _ _ n).mp heuler

end

/-- Settles O15: each rule is its equation. -/
theorem jacobiObeysItsSixRules : Obligations.JacobiObeysItsSixRules := by
  intro a n hn
  refine ⟨jacobi_cases a hn, ?rule1, ?rule2, ?rule3, jacobi_reduce (by omega), jacobi_halve,
    fun ha hlt ha4 hn4 => ?flip, fun ha hlt hodd hflip => ?noFlip⟩
  case rule1 => rintro rfl; exact jacobi_zero n
  case rule2 => rintro rfl; exact jacobi_one n
  case rule3 => rintro rfl; exact jacobi_two n
  case flip => rw [jacobi_swap ha hlt (by omega), if_pos ⟨ha4, hn4⟩]
  case noFlip => rw [jacobi_swap ha hlt hodd, if_neg hflip]

/-- Settles O16: the rules are the symbol's identities; its zeros and Euler's criterion are the
library's. -/
theorem jacobiIsTheJacobiSymbol : Obligations.JacobiIsTheJacobiSymbol := fun a n hn =>
  ⟨jacobi_eq_jacobiSym a n hn, jacobi_eq_zero_iff a hn, jacobi_emod_prime a hn⟩

/-- The one odd modulus with a single residue (42_jacobi.md R118). -/
theorem jacobi_modulus_one (a : Nat) : jacobi a 1 = 1 := by
  rw [jacobi_eq_jacobiSym a 1 rfl, jacobiSym.one_right]

theorem three_le_of_jacobi_eq_neg_one {a n : Nat} (hn : n % 2 = 1) (hj : jacobi a n = -1) :
    3 ≤ n := by
  have hne : n ≠ 1 := by
    rintro rfl
    rw [jacobi_modulus_one] at hj
    omega
  omega

/-- `+1` maps to `1 mod n`, which is 0 at `n = 1` (00_scope.md R13). -/
theorem symbolMod_one_eq_mod (n : Nat) : symbolMod 1 n = 1 % n := by
  rw [symbolMod, ← Nat.cast_one, ← Int.natCast_mod, Int.toNat_natCast]

end Sys2Proof.Machine.Arith

namespace Sys2Proof.Machine

section

variable {ra rn : Reg} {s : State}

theorem exec_jacobi_of_odd (rd : Reg) (hodd : s.reg rn % 2 = 1) {j : Int} {v : Nat}
    (hj : Arith.jacobi (s.reg ra) (s.reg rn) = j) (hv : Arith.symbolMod j (s.reg rn) = v) :
    exec (.jacobi rd ra rn) s = .next ((s.wrote rd v).setJres j) := by
  have hf : faultOn (.jacobi rd ra rn) s = 0 := if_neg (by omega)
  rw [exec_of_no_fault hf, completed, completeValue_eq_wrote, value, hj, hv]

theorem exec_jacobi_of_even (rd : Reg) (heven : s.reg rn % 2 = 0) :
    exec (.jacobi rd ra rn) s = .next (s.faulted 2) := by
  have hf : faultOn (.jacobi rd ra rn) s = 2 := if_pos heven
  rw [exec_of_fault (hf ▸ by decide), hf]

end

/-- Settles O14: the word by JACOBI's row of the opcode table, the completion by the value of the
symbol, the fault by the fault table. -/
theorem jacobiMeaning : Obligations.JacobiMeaning := by
  intro rd ra rn s
  refine ⟨fun w => decode_eq_ok_iff w _, fun h1 => ?one, fun hodd => ?odd, exec_jacobi_of_even rd⟩
  case one =>
    have hj : Arith.jacobi (s.reg ra) (s.reg rn) = 1 := h1 ▸ Arith.jacobi_modulus_one _
    have hv : Arith.symbolMod 1 (s.reg rn) = 0 := by rw [Arith.symbolMod_one_eq_mod, h1]
    exact ⟨hj, exec_jacobi_of_odd rd (by omega) hj hv⟩
  case odd =>
    rcases Arith.jacobi_cases (s.reg ra) hodd with hj | hj | hj
    · have h3 : 3 ≤ s.reg rn := Arith.three_le_of_jacobi_eq_neg_one hodd hj
      have hv : Arith.symbolMod (-1) (s.reg rn) = s.reg rn - 1 :=
        Arith.symbolMod_neg_one (by omega)
      exact .inr (.inr ⟨hj, h3, exec_jacobi_of_odd rd hodd hj hv⟩)
    · exact .inl ⟨hj, exec_jacobi_of_odd rd hodd hj (Arith.symbolMod_zero _)⟩
    · exact .inr (.inl ⟨hj, exec_jacobi_of_odd rd hodd hj (Arith.symbolMod_one_eq_mod _)⟩)

end Sys2Proof.Machine
end

section
/-! GCD (43_gcd.md): the function of R132 by its divisors, and the command of R131. -/

namespace Sys2Proof.Machine.Arith

theorem gcd_dvd_left (a b : Nat) : gcd a b ∣ a := Nat.gcd_dvd_left a b

theorem gcd_dvd_right (a b : Nat) : gcd a b ∣ b := Nat.gcd_dvd_right a b

theorem gcd_eq_zero_iff {a b : Nat} : gcd a b = 0 ↔ a = 0 ∧ b = 0 := Nat.gcd_eq_zero_iff

/-- Every common divisor divides the greatest one, so none exceeds it where it is positive
(43_gcd.md R132). -/
theorem le_gcd {a b d : Nat} (h : ¬(a = 0 ∧ b = 0)) (ha : d ∣ a) (hb : d ∣ b) : d ≤ gcd a b := by
  have hpos : 0 < gcd a b := Nat.pos_of_ne_zero (mt gcd_eq_zero_iff.mp h)
  exact Nat.le_of_dvd hpos (Nat.dvd_gcd ha hb)

end Sys2Proof.Machine.Arith

namespace Sys2Proof.Machine

/-- GCD has no row in the fault table: it completes on every pair of operands (43_gcd.md R131). -/
theorem exec_gcd (rd ra rb : Reg) (s : State) :
    exec (.gcd rd ra rb) s = .next (s.wrote rd (Arith.gcd (s.reg ra) (s.reg rb))) := by
  have hf : faultOn (.gcd rd ra rb) s = 0 := rfl
  rw [exec_of_no_fault hf, completed, completeValue_eq_wrote, value]

/-- Settles O17: the word by GCD's row of the opcode table, the completion by the absence of a fault,
the value by its divisors. -/
theorem gcdMeaning : Obligations.GcdMeaning := fun rd ra rb s =>
  ⟨fun w => decode_eq_ok_iff w _, Arith.gcd (s.reg ra) (s.reg rb), exec_gcd rd ra rb s,
    Arith.gcd_dvd_left _ _, Arith.gcd_dvd_right _ _,
    fun ha hb => Arith.gcd_eq_zero_iff.mpr ⟨ha, hb⟩, fun h _ => Arith.le_gcd h⟩

end Sys2Proof.Machine
end

section
/-! MODEXP and MODMUL (44_modexp.md R138, R142): the exact power and the exact product modulo an odd
`n`, and the fault on every other modulus. -/

namespace Sys2Proof.Machine

/-- A command on which the fault table holds the code `e` ends with it (60_exceptions.md R202,
R204). -/
theorem exec_of_faultOn_eq {i : Instr} {s : State} {e : BitVec 4} (h : faultOn i s = e)
    (he : e ≠ 0) : exec i s = .next (s.faulted e) := by
  subst h
  exact exec_of_fault he

section

variable {rn : Reg} {s : State}

theorem exec_modexp_of_odd (rd ra re : Reg) (hodd : s.reg rn % 2 = 1) :
    exec (.modexp rd ra re rn) s = .next (s.wrote rd (s.reg ra ^ s.reg re % s.reg rn)) := by
  have hf : faultOn (.modexp rd ra re rn) s = 0 := if_neg (by omega)
  rw [exec_of_no_fault hf, completed, completeValue_eq_wrote, value, Arith.modexp_eq]

theorem exec_modexp_of_even (rd ra re : Reg) (heven : s.reg rn % 2 = 0) :
    exec (.modexp rd ra re rn) s = .next (s.faulted 2) :=
  exec_of_faultOn_eq (if_pos heven) (by decide)

theorem exec_modmul_of_odd (rd ra rb : Reg) (hodd : s.reg rn % 2 = 1) :
    exec (.modmul rd ra rb rn) s = .next (s.wrote rd (s.reg ra * s.reg rb % s.reg rn)) := by
  have hf : faultOn (.modmul rd ra rb rn) s = 0 := if_neg (by omega)
  rw [exec_of_no_fault hf, completed, completeValue_eq_wrote, value, Arith.modmul]

theorem exec_modmul_of_even (rd ra rb : Reg) (heven : s.reg rn % 2 = 0) :
    exec (.modmul rd ra rb rn) s = .next (s.faulted 2) :=
  exec_of_faultOn_eq (if_pos heven) (by decide)

end

/-- Settles O18: the word by MODEXP's row of the opcode table, the value because the binary method
computes the exact power, the fault by the fault table. -/
theorem modexpMeaning : Obligations.ModexpMeaning := fun rd ra re _ _ =>
  ⟨fun w => decode_eq_ok_iff w _, exec_modexp_of_odd rd ra re, exec_modexp_of_even rd ra re⟩

/-- Settles O19: the word by MODMUL's row of the opcode table, both outcomes by the fault table. -/
theorem modmulMeaning : Obligations.ModmulMeaning := fun rd ra rb _ _ =>
  ⟨fun w => decode_eq_ok_iff w _, exec_modmul_of_odd rd ra rb, exec_modmul_of_even rd ra rb⟩

end Sys2Proof.Machine
end

section
/-! The bound of each command's result (44_modexp.md R148): the destination holds `value`, and each
arithmetic function is bounded by its operands. -/

namespace Sys2Proof.Machine

theorem Arith.gcd_le_max (a b : Nat) : Arith.gcd a b ≤ Nat.max a b :=
  Nat.le_of_lt_succ (Arith.gcd_lt (Nat.lt_succ_of_le (Nat.le_max_left a b))
    (Nat.lt_succ_of_le (Nat.le_max_right a b)))

section

variable {i : Instr} {rd : Reg} {s t : State}

/-- Without a fault the destination holds the command's value. -/
theorem reg_dest_of_exec (hx : exec i s = .next t) (hf : faultOn i s = 0) (hd : i.dest = some rd) :
    t.reg rd = value i s := by
  obtain ⟨-, rfl⟩ | ⟨hne, -⟩ := eq_of_exec hx
  · rw [completed_reg, if_pos hd]
  · exact absurd hf hne

/-- A residue modulo `n` in the destination is at most `n - 1`. -/
theorem reg_dest_le_pred_of_exec {n : Nat} (hx : exec i s = .next t) (hf : faultOn i s = 0)
    (hd : i.dest = some rd) (hv : value i s < n) : t.reg rd ≤ n - 1 := by
  rw [reg_dest_of_exec hx hf hd]
  exact Nat.le_sub_one_of_lt hv

end

/-- Settles O29: SAMPLE's result lies in its interval, a divisor is at most the larger operand, the
other results are residues; so a bound of all registers bounds every result. -/
theorem resultsFitTheirDestination : Obligations.ResultsFitTheirDestination := by
  refine ⟨fun rd ra rb rn s t => ?_, fun c i s t h hx => exec_reg_lt hx h⟩
  have nonzero (hodd : s.reg rn % 2 = 1) : s.reg rn ≠ 0 := by omega
  have no_fault (hodd : s.reg rn % 2 = 1) : (if s.reg rn % 2 = 0 then 2 else 0 : BitVec 4) = 0 :=
    if_neg (by omega)
  refine ⟨fun hle hx => ?sample, fun hodd hx => ?jacobi, fun hx => ?gcd, fun hodd hx => ?modexp,
    fun hodd hx => ?modmul, fun hodd h3 hx => ?modinv⟩
  case sample =>
    rw [reg_dest_of_exec hx (if_neg hle.not_gt) rfl]
    exact Arith.sample_le hle _
  case gcd =>
    rw [reg_dest_of_exec hx rfl rfl]
    exact Arith.gcd_le_max _ _
  case jacobi =>
    exact reg_dest_le_pred_of_exec hx (no_fault hodd) rfl (Arith.symbolMod_lt _ (nonzero hodd))
  case modexp =>
    exact reg_dest_le_pred_of_exec hx (no_fault hodd) rfl (Arith.modexp_lt _ _ (nonzero hodd))
  case modmul =>
    exact reg_dest_le_pred_of_exec hx (no_fault hodd) rfl (Arith.modmul_lt _ _ (nonzero hodd))
  case modinv =>
    have hf : faultOn (.modinv rd ra rn) s = 0 :=
      (if_neg (by omega)).trans (if_neg (by omega))
    exact reg_dest_le_pred_of_exec hx hf rfl (Arith.fermatPower_lt _ (nonzero hodd))

end Sys2Proof.Machine
end

section
/-! MODINV (45_modinv.md R151): the Fermat power, the two faults of its modulus, and the inverse it is
modulo an odd prime. -/

namespace Sys2Proof.Machine.Arith

/-- Fermat's little theorem: one more factor `s` makes the exponent `p - 1`. -/
theorem mul_fermatPower_mod_prime {s p : Nat} (hp : p.Prime) (hs : s % p ≠ 0) :
    s * fermatPower s p % p = 1 := by
  have hcop : s.Coprime p :=
    ((Nat.Prime.coprime_iff_not_dvd hp).mpr (mt Nat.mod_eq_zero_of_dvd hs)).symm
  have hexp : p - 2 + 1 = p - 1 := by have := hp.two_le; omega
  calc s * fermatPower s p % p
      = s ^ (p - 1) % p := by rw [fermatPower_eq, Nat.mul_mod_mod, ← pow_succ', hexp]
    _ = 1 % p := Nat.ModEq.pow_card_sub_one_eq_one hp hcop
    _ = 1 := Nat.mod_eq_of_lt hp.one_lt

/-- From `n = 3` on the exponent is not 0, so a multiple of `n` has the power 0. -/
theorem fermatPower_eq_zero {s n : Nat} (hn : 3 ≤ n) (hs : s % n = 0) : fermatPower s n = 0 := by
  have hexp : n - 2 ≠ 0 := by omega
  rw [fermatPower_eq, Nat.pow_mod, hs, zero_pow hexp, Nat.zero_mod]

end Sys2Proof.Machine.Arith

namespace Sys2Proof.Machine

section

variable {rn : Reg} {s : State}

theorem exec_modinv_of_odd (rd rs : Reg) (hodd : s.reg rn % 2 = 1) (hn : 3 ≤ s.reg rn) :
    exec (.modinv rd rs rn) s =
      .next (s.wrote rd (Arith.fermatPower (s.reg rs) (s.reg rn))) := by
  have hf : faultOn (.modinv rd rs rn) s = 0 :=
    (if_neg (by omega)).trans (if_neg (by omega))
  rw [exec_of_no_fault hf, completed, completeValue_eq_wrote, value]

theorem exec_modinv_of_even (rd rs : Reg) (heven : s.reg rn % 2 = 0) :
    exec (.modinv rd rs rn) s = .next (s.faulted 2) :=
  exec_of_faultOn_eq (if_pos heven) (by decide)

theorem exec_modinv_of_one (rd rs : Reg) (hone : s.reg rn = 1) :
    exec (.modinv rd rs rn) s = .next (s.faulted 3) :=
  exec_of_faultOn_eq ((if_neg (by omega)).trans (if_pos hone)) (by decide)

end

theorem wrote_reg_self (s : State) (rd : Reg) (v : Nat) : (s.wrote rd v).reg rd = v :=
  s.setReg_reg_self rd v

/-- Settles O20: the word by MODINV's row of the opcode table, the value by the binary method, both
faults by the fault table. -/
theorem modinvMeaning : Obligations.ModinvMeaning := fun rd rs rn s =>
  ⟨fun w => decode_eq_ok_iff w _,
    fun hodd hn => Arith.fermatPower_eq (s.reg rs) (s.reg rn) ▸ exec_modinv_of_odd rd rs hodd hn,
    exec_modinv_of_even rd rs, exec_modinv_of_one rd rs⟩

/-- Settles O21: an odd prime is an odd modulus from 3 on, so MODINV writes the Fermat power, which is
the inverse of `s`, or 0 where `s` is a multiple of the prime. -/
theorem modinvInvertsModuloAPrime : Obligations.ModinvInvertsModuloAPrime := by
  intro rd rs rn s hp h2
  have hodd : s.reg rn % 2 = 1 := hp.mod_two_eq_one_iff_ne_two.mpr h2
  have hn : 3 ≤ s.reg rn := by have := hp.two_le; omega
  refine ⟨_, exec_modinv_of_odd rd rs hodd hn, rfl, fun hs => ?unit, fun hs => ?zero⟩
  case unit => rw [wrote_reg_self, Arith.mul_fermatPower_mod_prime hp hs]
  case zero =>
    have hzero := Arith.fermatPower_eq_zero hn hs
    exact ⟨(wrote_reg_self ..).trans hzero, decide_eq_true hzero⟩

end Sys2Proof.Machine
end

section
/-! PTEST (46_ptest.md): one round as its two tests (R157), the loop's verdict and draws (R158), and what
the verdict promises (R160). -/

namespace Sys2Proof.Machine.Arith

/-- The natural residue of a symbol is its integer residue (00_scope.md R13). -/
theorem natCast_symbolMod (j : Int) {n : Nat} (hn : n ≠ 0) : (symbolMod j n : Int) = j % (n : Int) :=
  Int.toNat_of_nonneg (Int.emod_nonneg j (Nat.cast_ne_zero.mpr hn))

section

variable {num : Nat}

theorem eulerTest_iff (h : num ≠ 0) (a : Nat) :
    eulerTest num a = true ↔
      gcd a num = 1 ∧ ((a ^ ((num - 1) / 2) % num : Nat) : Int) = jacobi a num % (num : Int) := by
  rw [eulerTest_eq h, modexp_eq, ← natCast_symbolMod _ h, Nat.cast_inj]
  simp

/-- The interval of the witnesses has `num - 2` members (46_ptest.md R157). -/
theorem witness_eq (h3 : 3 ≤ num) (raw : Nat) : witness num raw = 1 + raw % (num - 2) := by
  have hsize : num - 2 - 1 + 1 = num - 2 := by omega
  rw [witness, sample, hsize]

theorem one_le_witness (num raw : Nat) : 1 ≤ witness num raw := le_sample 1 (num - 2) raw

theorem witness_lt (h3 : 3 ≤ num) (raw : Nat) : witness num raw < num := by
  have hle : witness num raw ≤ num - 2 := sample_le (by omega) raw
  omega

/-- Settles O22: the witness is the one `sample` selects, and the two tests are the coprimality and
Euler's congruence. -/
theorem roundPassesExactlyOnTheTwoTests : Obligations.RoundPassesExactlyOnTheTwoTests := by
  rintro num raw a - h3 rfl
  rw [← witness_eq h3]
  exact eulerTest_iff (by omega) _

/-- Euler's criterion at a prime, whose witnesses are all coprime to it (46_ptest.md R160 (a)). -/
theorem ssround_of_prime (hp : num.Prime) (hodd : num % 2 = 1) (h3 : 3 ≤ num) (raw : Nat) :
    ssround num raw = true := by
  have hcop : (witness num raw).Coprime num :=
    (Nat.coprime_of_lt_prime (Nat.one_le_iff_ne_zero.mp (one_le_witness num raw))
      (witness_lt h3 raw) hp).symm
  exact (eulerTest_iff (by omega) _).mpr ⟨hcop, (jacobi_emod_prime _ hodd hp).symm⟩

/-- The draw 0 selects the witness 1, which passes on every candidate (46_ptest.md R160 (c)). -/
theorem ssround_zero (h3 : 3 ≤ num) : ssround num 0 = true := by
  have hone : witness num 0 = 1 := by rw [witness_eq h3, Nat.zero_mod]
  rw [ssround, hone, eulerTest_iff (by omega), jacobi_one, one_pow]
  exact ⟨Nat.gcd_one_left num, Int.natCast_mod 1 num⟩

/-- The least factor of a composite is a witness, and the GCD test rejects it (46_ptest.md
R160 (c)). -/
theorem exists_ssround_eq_false (h3 : 3 ≤ num) (hp : ¬num.Prime) :
    ∃ raw < 2 ^ drawBits (num - 2), ssround num raw = false := by
  have hf2 : 2 ≤ num.minFac := (Nat.minFac_prime (by omega)).two_le
  have hle : num.minFac ≤ num - 2 :=
    calc num.minFac ≤ num / num.minFac := Nat.minFac_le_div (by omega) hp
      _ ≤ num / 2 := Nat.div_le_div_left hf2 two_pos
      _ ≤ num - 2 := by omega
  have hwit : witness num (num.minFac - 1) = num.minFac := sample_sub (by omega) hle
  have hgcd : gcd num.minFac num = num.minFac := Nat.gcd_eq_left num.minFac_dvd
  refine ⟨num.minFac - 1, sub_lt_two_pow_drawBits hle, ?_⟩
  rw [ssround, hwit, eulerTest, hgcd, if_pos (by omega)]

end

end Sys2Proof.Machine.Arith

namespace Sys2Proof.Machine

section

variable {num conf : Nat} {src : RandomSource}

/-- Acceptance of all rounds, with its draws (46_ptest.md R158). -/
theorem ptestRounds_of_all_pass
    (h : ∀ i < conf, Arith.ssround num (roundDraw num src i) = true) :
    ptestRounds num conf src = (true, src.after conf) := by
  rcases ptestRounds_cases num conf src with ⟨-, heq⟩ | ⟨i, hi, -, hrej, -⟩
  · exact heq
  · exact absurd ((h i hi).symm.trans hrej) nofun

/-- Rejection by the first round that rejects, with its draws (46_ptest.md R158). -/
theorem ptestRounds_of_first_reject {i : Nat} (hi : i < conf)
    (hpass : ∀ j < i, Arith.ssround num (roundDraw num src j) = true)
    (hrej : Arith.ssround num (roundDraw num src i) = false) :
    ptestRounds num conf src = (false, src.after (i + 1)) := by
  rcases ptestRounds_cases num conf src with ⟨hall, -⟩ | ⟨k, -, hbefore, hk, heq⟩
  · exact absurd ((hall i hi).symm.trans hrej) nofun
  · rcases lt_trichotomy i k with hlt | rfl | hgt
    · exact absurd ((hbefore i hlt).symm.trans hrej) nofun
    · exact heq
    · exact absurd ((hpass k hgt).symm.trans hk) nofun

theorem ptestRounds_fst_of_reject_zero (hconf : 1 ≤ conf)
    (hrej : Arith.ssround num (src.draw (Arith.drawBits (num - 2))) = false) :
    (ptestRounds num conf src).1 = false :=
  congrArg Prod.fst (ptestRounds_of_first_reject hconf (fun _ => nofun) hrej)

/-- A source that answers 0 to each of `conf` rounds. -/
theorem roundDraw_replicate_zero (num drawn : Nat) {i : Nat} (hi : i < conf) :
    roundDraw num { answers := List.replicate conf 0, drawn := drawn } i = 0 := by
  have hpos : conf - i = conf - i - 1 + 1 := by omega
  rw [roundDraw, RandomSource.after_eq, List.drop_replicate, hpos, List.replicate_succ]
  exact Nat.zero_mod _

theorem ptestRounds_fst_of_zeros (h3 : 3 ≤ num) (conf drawn : Nat) :
    (ptestRounds num conf { answers := List.replicate conf 0, drawn := drawn }).1 = true := by
  refine congrArg Prod.fst (ptestRounds_of_all_pass fun i hi => ?_)
  rw [roundDraw_replicate_zero num drawn hi]
  exact Arith.ssround_zero h3

end

section

variable {rn : Reg} {s : State}

theorem faultOn_ptest_of_odd (conf : Nat) (hodd : s.reg rn % 2 = 1) (h3 : 3 ≤ s.reg rn) :
    faultOn (.ptest rn conf) s = 0 := (if_neg (by omega)).trans (if_neg (by omega))

/-- PTEST on a candidate: the verdict and the source after the loop (46_ptest.md R158). -/
theorem exec_ptest_of_odd (conf : Nat) (hodd : s.reg rn % 2 = 1) (h3 : 3 ≤ s.reg rn)
    {verdict : Bool} {src : RandomSource}
    (h : ptestRounds (s.reg rn) conf s.source = (verdict, src)) :
    exec (.ptest rn conf) s = .next (((s.setPrime verdict).setSource src).finish) := by
  rw [exec_of_no_fault (faultOn_ptest_of_odd conf hodd h3), completed, h]

theorem exec_ptest_of_even (conf : Nat) (heven : s.reg rn % 2 = 0) :
    exec (.ptest rn conf) s = .next (s.faulted 2) :=
  exec_of_faultOn_eq (if_pos heven) (by decide)

theorem exec_ptest_of_one (conf : Nat) (hone : s.reg rn = 1) :
    exec (.ptest rn conf) s = .next (s.faulted 3) :=
  exec_of_faultOn_eq ((if_neg (by omega)).trans (if_pos hone)) (by decide)

/-- The verdict of PTEST is that of its loop, from the source it is given. -/
theorem exists_exec_ptest_prime (conf : Nat) (hodd : s.reg rn % 2 = 1) (h3 : 3 ≤ s.reg rn)
    (src : RandomSource) :
    ∃ t, exec (.ptest rn conf) (s.setSource src) = .next t ∧
      t.prime = (ptestRounds (s.reg rn) conf src).1 :=
  ⟨_, exec_ptest_of_odd (s := s.setSource src) conf hodd h3 rfl, rfl⟩

end

/-- Settles O23: the word by PTEST's row of the opcode table, the two verdicts by what the loop does,
both faults by the fault table. -/
theorem ptestMeaning : Obligations.PtestMeaning := by
  intro rn conf s passes hpasses
  obtain rfl : passes = fun i => Arith.ssround (s.reg rn) (roundDraw (s.reg rn) s.source i) :=
    funext hpasses
  exact ⟨fun w => decode_eq_ok_iff w _,
    fun hodd h3 hall => exec_ptest_of_odd conf hodd h3 (ptestRounds_of_all_pass hall),
    fun hodd h3 i hi hpass hrej =>
      exec_ptest_of_odd conf hodd h3 (ptestRounds_of_first_reject hi hpass hrej),
    exec_ptest_of_even conf, exec_ptest_of_one conf⟩

/-- Settles O24: every round passes on a prime; on a composite a factor drawn first rejects, and the
draw 0 passes in every round. -/
theorem ptestPromises : Obligations.PtestPromises := by
  intro rn conf s hodd h3
  have accepts (hp : (s.reg rn).Prime) :
      ∃ t, exec (.ptest rn conf) s = .next t ∧ t.prime = true :=
    ⟨_, exec_ptest_of_odd conf hodd h3
      (ptestRounds_of_all_pass fun _ _ => Arith.ssround_of_prime hp hodd h3 _), rfl⟩
  refine ⟨accepts, fun t ht hprime hp => ?composite, fun hp hconf => ⟨?rejected, ?accepted⟩⟩
  case composite =>
    obtain ⟨u, hu, hone⟩ := accepts hp
    obtain rfl := Host.Outcome.next.inj (ht.symm.trans hu)
    exact absurd (hone.symm.trans hprime) nofun
  case rejected =>
    obtain ⟨raw, hraw, hrej⟩ := Arith.exists_ssround_eq_false h3 hp
    obtain ⟨src, rfl⟩ := exists_source_draw_eq hraw
    obtain ⟨t, ht, hprime⟩ := exists_exec_ptest_prime conf hodd h3 src
    exact ⟨src, t, ht, hprime.trans (ptestRounds_fst_of_reject_zero hconf hrej)⟩
  case accepted =>
    obtain ⟨t, ht, hprime⟩ := exists_exec_ptest_prime conf hodd h3 _
    exact ⟨_, t, ht, hprime.trans (ptestRounds_fst_of_zeros h3 conf 0)⟩

end Sys2Proof.Machine
end

section
/-! One command of a host sequence, issued through the port or run by `exec`: the same completion, but
for `CUR` (20_memory.md R64, R68). -/

namespace Sys2Proof.Machine

/-- `t` is `s` after `i` has completed without fault. `CUR` is left open: the host's offer writes it,
`exec` does not. -/
def Ran (i : Instr) (s t : State) : Prop := ∃ w : Word, t = { completed i s with cur := w }

section

variable {i : Instr} {rd k : Reg} {s t : State}

theorem ran_of_exec (hx : exec i s = .next t) (hf : faultOn i s = 0) : Ran i s t :=
  ⟨_, Host.Outcome.next.inj (hx.symm.trans (exec_of_no_fault hf))⟩

theorem faultOn_accept (i : Instr) (w : Word) (s : State) : faultOn i (s.accept w) = faultOn i s := by
  cases i <;> rfl

/-- A completion overwrites what the acceptance wrote, but for `CUR`. -/
theorem completed_accept (i : Instr) (w : Word) (s : State) :
    completed i (s.accept w) = { completed i s with cur := w } := by
  cases i <;> rfl

theorem runCommand_of_no_fault (c : Config.Params) (hb : s.busy = false) (he : s.err = 0)
    (hwf : i.wf = true) (hf : faultOn i s = 0) :
    runCommand c i s = .next { completed i s with cur := encode i } := by
  rw [runCommand_of_idle c hb he (decodeOfEncode i hwf),
    exec_of_no_fault ((faultOn_accept ..).trans hf), completed_accept]

theorem wf_of_dest (hd : i.dest = some rd) : i.wf = true := by
  cases i with
  | ptest rn conf => exact nomatch hd
  | _ => rfl

theorem Ran.reg (h : Ran i s t) (k : Reg) :
    t.reg k = if i.dest = some k then value i s else s.reg k := by
  obtain ⟨w, rfl⟩ := h
  exact completed_reg i s k

theorem Ran.reg_dest (h : Ran i s t) (hd : i.dest = some rd) : t.reg rd = value i s := by
  rw [h.reg, if_pos hd]

theorem Ran.reg_of_ne (h : Ran i s t) (hd : i.dest = some rd) (hk : k ≠ rd) :
    t.reg k = s.reg k := by
  rw [h.reg, if_neg]
  rw [hd, Option.some.injEq]
  exact hk.symm

theorem Ran.one (h : Ran i s t) (hd : i.dest = some rd) : t.one = decide (value i s = 1) := by
  obtain ⟨w, rfl⟩ := h
  obtain ⟨-, hone⟩ := completed_value_flags i s
  rwa [hd, if_neg nofun] at hone

theorem Ran.source (h : Ran i s t) : t.source = (completed i s).source := by
  obtain ⟨w, rfl⟩ := h
  rfl

/-! Operands on which the fault table (60_exceptions.md R202) has no code. -/

theorem faultOn_sample_of_le {rmin rmax : Reg} (rd : Reg) (h : s.reg rmin ≤ s.reg rmax) :
    faultOn (.sample rd rmin rmax) s = 0 := if_neg h.not_gt

theorem faultOn_modexp_of_odd {rn : Reg} (rd ra re : Reg) (hodd : s.reg rn % 2 = 1) :
    faultOn (.modexp rd ra re rn) s = 0 := if_neg (by omega)

theorem faultOn_jacobi_of_odd {rn : Reg} (rd ra : Reg) (hodd : s.reg rn % 2 = 1) :
    faultOn (.jacobi rd ra rn) s = 0 := if_neg (by omega)

end

/-- `s` with the fields that a chain of value commands may write taken from `t`. -/
def State.withChainFields (s t : State) : State :=
  { s with
    regs := t.regs, z := t.z, one := t.one, jres := t.jres, source := t.source
    cur := t.cur, done := t.done }

/-- A value command leaves an idle engine idle and writes none but the chain's fields. -/
theorem Ran.withChainFields {i : Instr} {rd : Reg} {s t : State} (h : Ran i s t)
    (hd : i.dest = some rd) (hb : s.busy = false) : t = s.withChainFields t := by
  obtain ⟨w, rfl⟩ := h
  rw [State.withChainFields, hb]
  cases i with
  | nop => exact nomatch hd
  | ptest rn conf => exact nomatch hd
  | _ => rfl

end Sys2Proof.Machine
end

section
/-! PTEST against the host's chain of SAMPLE, GCD, MODEXP and JACOBI (46_ptest.md R161): the commands'
values in one round, then what a round and the chain leave unchanged, then the loops side by side. -/

namespace Sys2Proof.Machine

namespace ChainRegs

/-- The registers the chain writes. -/
def results (r : ChainRegs) : List Reg := [r.witness, r.divisor, r.left, r.symbol]

/-- The chain's operands for the candidate `num` (46_ptest.md R157). -/
structure Holds (r : ChainRegs) (num : Nat) (s : State) : Prop where
  num_eq : s.reg r.num = num
  min_eq : s.reg r.min = 1
  max_eq : s.reg r.max = num - 2
  half_eq : s.reg r.half = (num - 1) / 2

section

variable {r : ChainRegs} {num : Nat} {s t : State} {i : Instr} {rd : Reg}

theorem Holds.of_loaded (h : r.Loaded s) : r.Holds (s.reg r.num) s :=
  have ⟨hmin, hmax, hhalf⟩ := h
  ⟨rfl, hmin, hmax, hhalf⟩

theorem operand_not_result (hap : r.Apart) {k : Reg} (hk : k ∈ [r.num, r.min, r.max, r.half]) :
    k ∉ r.results := fun hr =>
  have ⟨hoperands, _⟩ := hap
  hoperands k hr hk

theorem Holds.of_reg_eq (h : r.Holds num s) (hap : r.Apart)
    (heq : ∀ k ∉ r.results, t.reg k = s.reg k) : r.Holds num t where
  num_eq := (heq _ (operand_not_result hap (by simp))).trans h.num_eq
  min_eq := (heq _ (operand_not_result hap (by simp))).trans h.min_eq
  max_eq := (heq _ (operand_not_result hap (by simp))).trans h.max_eq
  half_eq := (heq _ (operand_not_result hap (by simp))).trans h.half_eq

theorem reg_eq_of_ran (h : Ran i s t) (hd : i.dest = some rd) (hrd : rd ∈ r.results) :
    ∀ k ∉ r.results, t.reg k = s.reg k := fun _ hk =>
  h.reg_of_ne hd (ne_of_mem_of_not_mem hrd hk).symm

theorem Holds.of_ran (h : r.Holds num s) (hap : r.Apart) (hx : Ran i s t) (hd : i.dest = some rd)
    (hrd : rd ∈ r.results) : r.Holds num t :=
  h.of_reg_eq hap (reg_eq_of_ran hx hd hrd)

/-- SAMPLE's interval `[1, num - 2]` is not empty. -/
theorem Holds.min_le_max (h : r.Holds num s) (h3 : 3 ≤ num) : s.reg r.min ≤ s.reg r.max := by
  rw [h.min_eq, h.max_eq]
  omega

theorem Holds.odd (h : r.Holds num s) (hodd : num % 2 = 1) : s.reg r.num % 2 = 1 := by
  rw [h.num_eq, hodd]

end

/-! The values of one round. -/

section

variable {r : ChainRegs} {num raw : Nat} {s s1 s2 s3 s4 : State}

/-- The witness of the round stands beside the operands. -/
structure HoldsWitness (r : ChainRegs) (num raw : Nat) (s : State) : Prop extends r.Holds num s where
  witness_eq : s.reg r.witness = Arith.witness num raw

theorem HoldsWitness.of_sample (h : r.Holds num s) (hap : r.Apart)
    (ran1 : Ran (.sample r.witness r.min r.max) s s1) :
    r.HoldsWitness num (s.source.draw (Arith.drawBits (num - 2))) s1 where
  toHolds := h.of_ran hap ran1 rfl (by simp [results])
  witness_eq := by
    rw [ran1.reg_dest rfl, value, h.min_eq, h.max_eq]
    rfl

section
variable (h : r.HoldsWitness num raw s1) (ran2 : Ran (.gcd r.divisor r.witness r.num) s1 s2)
include h ran2

theorem HoldsWitness.of_gcd (hap : r.Apart) : r.HoldsWitness num raw s2 where
  toHolds := h.toHolds.of_ran hap ran2 rfl (by simp [results])
  witness_eq := by
    obtain ⟨-, hne, -⟩ := hap
    rw [ran2.reg_of_ne rfl hne, h.witness_eq]

theorem one_of_gcd : s2.one = decide (Arith.gcd (Arith.witness num raw) num = 1) := by
  rw [ran2.one rfl, value, h.witness_eq, h.num_eq]

/-- A round rejected on `ONE` is rejected by the GCD test. -/
theorem ssround_eq_false_of_not_one (hnum : num ≠ 0) (hone : s2.one = false) :
    Arith.ssround num raw = false := by
  rw [Arith.ssround, Arith.eulerTest_eq hnum, ← one_of_gcd h ran2, hone, Bool.false_and]

end

section
variable (h : r.HoldsWitness num raw s2) (ran3 : Ran (.modexp r.left r.witness r.half r.num) s2 s3)
include h ran3

theorem HoldsWitness.of_modexp (hap : r.Apart) : r.HoldsWitness num raw s3 where
  toHolds := h.toHolds.of_ran hap ran3 rfl (by simp [results])
  witness_eq := by
    obtain ⟨-, -, hne, -⟩ := hap
    rw [ran3.reg_of_ne rfl hne, h.witness_eq]

theorem left_of_modexp :
    s3.reg r.left = Arith.modexp (Arith.witness num raw) ((num - 1) / 2) num := by
  rw [ran3.reg_dest rfl, value, h.witness_eq, h.half_eq, h.num_eq]

end

theorem symbol_of_jacobi (h : r.HoldsWitness num raw s3)
    (ran4 : Ran (.jacobi r.symbol r.witness r.num) s3 s4) :
    s4.reg r.symbol = Arith.symbolMod (Arith.jacobi (Arith.witness num raw) num) num := by
  rw [ran4.reg_dest rfl, value, h.witness_eq, h.num_eq]

/-- The two tests of a round are `ONE` after GCD and the comparison after JACOBI, which leaves MODEXP's
result in place. -/
theorem ssround_eq_one_and_compare (hnum : num ≠ 0) (hap : r.Apart) (h : r.HoldsWitness num raw s1)
    (ran2 : Ran (.gcd r.divisor r.witness r.num) s1 s2)
    (ran3 : Ran (.modexp r.left r.witness r.half r.num) s2 s3)
    (ran4 : Ran (.jacobi r.symbol r.witness r.num) s3 s4) :
    Arith.ssround num raw = (s2.one && s4.reg r.left == s4.reg r.symbol) := by
  have w2 := h.of_gcd ran2 hap
  have w3 := w2.of_modexp ran3 hap
  obtain ⟨-, -, -, hne⟩ := hap
  rw [Arith.ssround, Arith.eulerTest_eq hnum, one_of_gcd h ran2, ran4.reg_of_ne rfl hne,
    left_of_modexp w2 ran3, symbol_of_jacobi w3 ran4]

end

end ChainRegs

theorem ptestRounds_one (num : Nat) (src : RandomSource) :
    ptestRounds num 1 src =
      (Arith.ssround num (src.draw (Arith.drawBits (num - 2))), src.advance) := by
  rw [ptestRounds]
  cases Arith.ssround num (src.draw (Arith.drawBits (num - 2))) <;> rfl

/-- Settles O25: from SAMPLE on each command leaves the witness and the operands in place, so the two
tests read off the chain are those of the round; both take SAMPLE's draw. -/
theorem ptestRoundEqualsTheChain : Obligations.PtestRoundEqualsTheChain := by
  intro r s s1 s2 s3 s4 u hap hload hodd h3 hx1 hx2 hx3 hx4 hu
  have k := ChainRegs.Holds.of_loaded hload
  have ran1 := ran_of_exec hx1 (faultOn_sample_of_le _ (k.min_le_max h3))
  have w1 := ChainRegs.HoldsWitness.of_sample k hap ran1
  have ran2 := ran_of_exec hx2 rfl
  have w2 := w1.of_gcd ran2 hap
  have ran3 := ran_of_exec hx3 (faultOn_modexp_of_odd _ _ _ (w2.odd hodd))
  have w3 := w2.of_modexp ran3 hap
  have ran4 := ran_of_exec hx4 (faultOn_jacobi_of_odd _ _ (w3.odd hodd))
  have hsource : s4.source = s.source.advance :=
    ran4.source.trans (ran3.source.trans (ran2.source.trans ran1.source))
  obtain rfl := Host.Outcome.next.inj
    ((exec_ptest_of_odd 1 hodd h3 (ptestRounds_one _ _)).symm.trans hu)
  exact ⟨ChainRegs.ssround_eq_one_and_compare (by omega) hap w1 ran2 ran3 ran4, hsource.symm, rfl⟩

namespace ChainRegs

/-- What the chain leaves unchanged: the fields it does not write, and every register but its four
results (46_ptest.md R161). -/
structure Frame (r : ChainRegs) (s t : State) : Prop where
  state : t = s.withChainFields t
  reg : ∀ k ∉ r.results, t.reg k = s.reg k

/-- The engine is idle with `ERR = 0`, and the operands are loaded. -/
structure Ready (r : ChainRegs) (num : Nat) (s : State) : Prop extends r.Holds num s where
  busy : s.busy = false
  err : s.err = 0

section

variable {r : ChainRegs} {num : Nat} {s t u : State}

theorem Frame.refl (r : ChainRegs) (s : State) : r.Frame s s := ⟨rfl, fun _ _ => rfl⟩

theorem Frame.trans (h : r.Frame s t) (h' : r.Frame t u) : r.Frame s u where
  state := h'.state.trans (congrArg (·.withChainFields u) h.state)
  reg k hk := (h'.reg k hk).trans (h.reg k hk)

theorem Frame.ready (h : r.Frame s t) (hap : r.Apart) (hs : r.Ready num s) : r.Ready num t where
  toHolds := hs.toHolds.of_reg_eq hap h.reg
  busy := (congrArg State.busy h.state).trans hs.busy
  err := (congrArg State.err h.state).trans hs.err

/-- A value command issued in the chain: it runs, and the chain can go on. -/
theorem Ready.run {i : Instr} {rd : Reg} (c : Config.Params) (hs : r.Ready num s) (hap : r.Apart)
    (hd : i.dest = some rd) (hrd : rd ∈ r.results) (hf : faultOn i s = 0) :
    ∃ t, runCommand c i s = .next t ∧ Ran i s t ∧ r.Frame s t ∧ r.Ready num t := by
  have hrun := runCommand_of_no_fault c hs.busy hs.err (wf_of_dest hd) hf
  have hran : Ran i s { completed i s with cur := encode i } := ⟨_, rfl⟩
  have hframe : r.Frame s { completed i s with cur := encode i } :=
    ⟨hran.withChainFields hd hs.busy, reg_eq_of_ran hran hd hrd⟩
  exact ⟨_, hrun, hran, hframe, hframe.ready hap hs⟩

/-- One round of the chain has the verdict of PTEST's round on the same draw. -/
theorem chainRound_eq (c : Config.Params) (hap : r.Apart) (hodd : num % 2 = 1) (h3 : 3 ≤ num)
    (hs : r.Ready num s) :
    ∃ t, chainRound c r s =
        some (Arith.ssround num (s.source.draw (Arith.drawBits (num - 2))), t) ∧
      t.source = s.source.advance ∧ r.Frame s t := by
  obtain ⟨s1, run1, ran1, f1, hs1⟩ :=
    hs.run c hap rfl (by simp [results]) (faultOn_sample_of_le r.witness (hs.min_le_max h3))
  obtain ⟨s2, run2, ran2, f2, hs2⟩ :=
    hs1.run c hap (i := .gcd r.divisor r.witness r.num) rfl (by simp [results]) rfl
  have w1 := HoldsWitness.of_sample hs.toHolds hap ran1
  have src2 : s2.source = s.source.advance := ran2.source.trans ran1.source
  have f := f1.trans f2
  simp only [chainRound, run1, run2, next?_next, Option.bind_some]
  cases hone : s2.one with
  | false =>
    rw [ssround_eq_false_of_not_one w1 ran2 (by omega) hone]
    exact ⟨s2, rfl, src2, f⟩
  | true =>
    obtain ⟨s3, run3, ran3, f3, hs3⟩ :=
      hs2.run c hap rfl (by simp [results])
        (faultOn_modexp_of_odd r.left r.witness r.half (hs2.odd hodd))
    obtain ⟨s4, run4, ran4, f4, -⟩ :=
      hs3.run c hap rfl (by simp [results])
        (faultOn_jacobi_of_odd r.symbol r.witness (hs3.odd hodd))
    rw [ssround_eq_one_and_compare (by omega) hap w1 ran2 ran3 ran4, hone]
    refine ⟨s4, ?_, ran4.source.trans (ran3.source.trans src2), (f.trans f3).trans f4⟩
    simp [run3, run4]

/-- The chain's rounds are PTEST's rounds, with the same verdict from the same draws (46_ptest.md
R161). -/
theorem chain_eq (c : Config.Params) (hap : r.Apart) (hodd : num % 2 = 1) (h3 : 3 ≤ num) (conf : Nat)
    (hs : r.Ready num s) :
    ∃ t, chain c r conf s = some ((ptestRounds num conf s.source).1, t) ∧
      t.source = (ptestRounds num conf s.source).2 ∧ r.Frame s t := by
  induction conf generalizing s with
  | zero => exact ⟨s, rfl, rfl, .refl r s⟩
  | succ conf ih =>
    obtain ⟨s', hround, hsource, hframe⟩ := chainRound_eq c hap hodd h3 hs
    rw [chain, hround, Option.bind_some, ptestRounds]
    cases Arith.ssround num (s.source.draw (Arith.drawBits (num - 2))) with
    | false => exact ⟨s', rfl, hsource, hframe⟩
    | true =>
      obtain ⟨t, hchain, hsource', hframe'⟩ := ih (hframe.ready hap hs)
      rw [hsource] at hchain hsource'
      exact ⟨t, hchain, hsource', hframe.trans hframe'⟩

end

end ChainRegs

/-- PTEST issued to an idle engine writes `PRIME`, `CUR` and `DONE` (46_ptest.md R158). -/
theorem runCommand_ptest (c : Config.Params) {rn : Reg} {conf : Nat} {s : State} (hconf : conf < 4096)
    (hb : s.busy = false) (he : s.err = 0) (hodd : s.reg rn % 2 = 1) (h3 : 3 ≤ s.reg rn) :
    runCommand c (.ptest rn conf) s =
      .next { s with
        prime := (ptestRounds (s.reg rn) conf s.source).1
        source := (ptestRounds (s.reg rn) conf s.source).2
        cur := encode (.ptest rn conf), done := true } := by
  have hf := faultOn_ptest_of_odd conf hodd h3
  have hwf : (Instr.ptest rn conf).wf = true := decide_eq_true hconf
  rw [runCommand_of_no_fault c hb he hwf hf, hb]
  rfl

/-- Settles O55: the chain's loop is PTEST's loop, round by round; the frames are those of its commands
and of PTEST. -/
theorem ptestEqualsTheChain : Obligations.PtestEqualsTheChain := by
  intro c r conf s hconf hb he hap hload hodd h3
  have hs : r.Ready (s.reg r.num) s := ⟨.of_loaded hload, hb, he⟩
  obtain ⟨t, hchain, hsource, hframe⟩ := ChainRegs.chain_eq c hap hodd h3 conf hs
  exact ⟨_, t, _, hchain, runCommand_ptest c hconf hb he hodd h3, hsource, rfl, hframe.state,
    hframe.reg⟩

end Sys2Proof.Machine
end

section
/-! The cipher the engine serves (47_host_sequences.md R176, R177): both sides raise `g` to `x * y`, and
the Fermat power of that shared secret takes its factor off the block again. -/

namespace Sys2Proof.Machine.Arith

/-- A power of a power, the first one reduced: the exponents multiply. -/
theorem modexp_modexp (g x y n : Nat) : modexp (modexp g x n) y n = modexp g (x * y) n := by
  rw [modexp_eq, modexp_eq, modexp_eq, ← Nat.pow_mod, ← pow_mul]

theorem modexp_mod_prime_ne_zero {g p : Nat} (hp : p.Prime) (hg : g % p ≠ 0) (e : Nat) :
    modexp g e p % p ≠ 0 := by
  rw [modexp_eq, Nat.mod_mod]
  intro h
  exact hg (Nat.mod_eq_zero_of_dvd (hp.dvd_of_dvd_pow (Nat.dvd_of_mod_eq_zero h)))

/-- Modulo a prime, the Fermat power of a unit undoes its factor. -/
theorem modmul_fermatPower_cancel {m k p : Nat} (hp : p.Prime) (hk : k % p ≠ 0) (hm : m < p) :
    modmul (modmul m k p) (fermatPower k p) p = m := by
  have hinv : k * fermatPower k p ≡ 1 [MOD p] :=
    (mul_fermatPower_mod_prime hp hk).trans (Nat.mod_eq_of_lt hp.one_lt).symm
  calc modmul (modmul m k p) (fermatPower k p) p
      = m * (k * fermatPower k p) % p := by rw [modmul, modmul, Nat.mod_mul_mod, Nat.mul_assoc]
    _ = m * 1 % p := hinv.mul_left m
    _ = m := by rw [Nat.mul_one, Nat.mod_eq_of_lt hm]

/-- Settles O54: encryption multiplies the block by `(g ^ x) ^ y`, decryption by the Fermat power of
`(g ^ y) ^ x`, which is the same unit modulo the prime. -/
theorem engineArithmeticDecryptsWhatItEncrypts :
    Obligations.EngineArithmeticDecryptsWhatItEncrypts := by
  rintro p g x y m _ _ _ _ hp - hg hm rfl rfl rfl rfl
  have hshared : modexp (modexp g y p) x p = modexp (modexp g x p) y p := by
    rw [modexp_modexp, modexp_modexp, Nat.mul_comm]
  rw [hshared]
  exact modmul_fermatPower_cancel hp
    (modexp_mod_prime_ne_zero hp (modexp_mod_prime_ne_zero hp hg x) y) hm

end Sys2Proof.Machine.Arith
end

section
/-! Exceptions, reset and hazards: the fault table (60_exceptions.md R202), an idle engine (R221), reset
(70_reset_and_hazards.md R230), and host accesses the engine refuses or is spared (R236, R237). -/

namespace Sys2Proof.Machine

theorem engineTurn_of_idle {s : State} (hb : s.busy = false) : engineTurn s = .next s := by
  simp [engineTurn, hb]

/-- 30_encoding.md R87: a word that decodes to nothing completes with `ERR_ILLEGAL`. -/
theorem engineTurn_of_illegal {s : State} {e : DecodeError} (hb : s.busy = true)
    (hd : decode s.cur = .error e) : engineTurn s = .next (s.faulted 1) := by
  simp [engineTurn, hb, hd, takeFault_eq_faulted, FaultCode.code]

/-- Settles O26: `exec` is the fault of the table or a completion, which keeps `ERR`. -/
theorem faultTable : Obligations.FaultTable :=
  ⟨fun i s => ⟨exec_of_fault, fun h => ⟨_, exec_of_no_fault h, (completes_completed i s).err⟩⟩,
    fun _ _ => engineTurn_of_illegal⟩

/-- Settles O33: a step on a reset event is `resetEngine`. -/
theorem resetAtAnyPoint : Obligations.ResetAtAnyPoint := fun c _ => stepAt_reset c

section
variable {c : Config.Params} {s t : State} {size : AccessSize} {off : Nat}

/-- A read of any size that has a next state gives the host the port's word. -/
theorem eq_of_stepAt_read (he : s.nextEvent = .read size off) (h : stepAt c s = .next t) :
    t = (hostRead c off s.rest).2.reply (hostRead c off s.rest).1 := by
  rw [stepAt, he, runEvent, readStep] at h
  split at h
  · cases h
  · exact (Host.Outcome.next.inj h).symm

theorem eq_of_stepAt_write {v : Word} (he : s.nextEvent = .write size off v)
    (h : stepAt c s = .next t) : t = hostWrite c off v s.rest := by
  rw [stepAt, he, runEvent, writeStep] at h
  split at h
  · cases h
  · exact (Host.Outcome.next.inj h).symm

theorem hostRead_state_of_idle (hb : s.busy = false) : (hostRead c off s).2 = s := by
  rcases hostRead_state_cases c off s with h | ⟨hbusy, -⟩
  · exact h
  · exact absurd (hbusy.symm.trans hb) nofun

/-- `HAZ` stays 0 in a step that is no refused access (10_state.md R36). -/
theorem haz_eq_false_of_not_refused (hz : s.haz = false) (hr : ¬Refuses c s.nextEvent s)
    (h : stepAt c s = .next t) : t.haz = false :=
  Bool.eq_false_of_not_eq_true (mt (haz_rises_in_refusal (stepTo_of_stepAt h) hz) hr)

/-- A run that has a next state, by its first step. -/
theorem runAt_succ_eq_next_iff {k : Nat} :
    runAt c (k + 1) s = .next t ↔ ∃ u, stepAt c s = .next u ∧ runAt c k u = .next t := by
  rw [runAt]
  cases stepAt c s <;> simp

end

/-- Settles O7: the turn of an idle engine does nothing, and a read of it only gives the host one
word. -/
theorem idleEngineKeepsItsState : Obligations.IdleEngineKeepsItsState := by
  rintro c s t hb (he | ⟨size, off, he⟩) h
  · cases h.symm.trans ((stepAt_engine c he).trans (engineTurn_of_idle hb))
    exact ⟨[], rfl, Nat.zero_le 1⟩
  · rw [eq_of_stepAt_read he h, hostRead_state_of_idle (s := s.rest) hb]
    exact ⟨[_], rfl, le_rfl⟩

/-- Settles O40: a refused read answers 0 and a refused write nothing, both on the marked state. -/
theorem refusedAccessOnlySetsHaz : Obligations.RefusedAccessOnlySetsHaz := by
  intro c s t hr h
  cases he : s.nextEvent <;> rw [he] at hr
  case read size off =>
    rw [eq_of_stepAt_read he h, hostRead_of_refused (s := s.rest) (size := size) hr]
    exact .inl ⟨size, off, rfl, rfl⟩
  case write size off v =>
    rw [eq_of_stepAt_write he h, hostWrite_of_refused (s := s.rest) (size := size) hr]
    exact .inr ⟨size, off, v, rfl, rfl⟩
  case engine => exact hr.elim
  case reset => exact hr.elim

/-- Settles O41, by induction on the number of steps: the first is no refused access, so it keeps
`HAZ = 0`, and the rest is a shorter run of the same kind. -/
theorem protocolKeepingHostNeverSeesHaz : Obligations.ProtocolKeepingHostNeverSeesHaz := by
  intro c k
  induction k with
  | zero =>
    rintro s t hz - h
    cases h
    exact hz
  | succ k ih =>
    intro s t hz hkeeps h
    obtain ⟨u, hstep, hrun⟩ := runAt_succ_eq_next_iff.mp h
    refine ih u t (haz_eq_false_of_not_refused hz (hkeeps 0 s k.succ_pos rfl) hstep) ?_ hrun
    intro m v hm hv
    exact hkeeps (m + 1) v (Nat.succ_lt_succ hm) (runAt_succ_eq_next_iff.mpr ⟨u, hstep, hv⟩)

end Sys2Proof.Machine
end
